-- ==== Sys2Proof/Word.lean ====
section
/-! DEFINITION. The words of the machine: bytes of the streams, bit strings, and the command word. -/

namespace Sys2Proof

/-- One byte of a stream (20_memory.md R50, R53). -/
abbrev Byte := BitVec 8

/-- A `size`-bit vector of the spec's pseudocode as the run of its bits, the most significant first
(00_scope.md R10, 30_encoding.md R80, R81). `a ++ b` of the spec is list append, a slice is a `take`
and a `drop`. -/
abbrev Bits := List Bool

/-- A command word `CW`, 96 bits (30_encoding.md R90). -/
abbrev CommandWord := BitVec 96

end Sys2Proof
end

