-- ==== Sys2Proof/Config.lean ====
section
/-! DEFINITION. What an implementation fixes (00_scope.md R9), and the free values of the model. -/

namespace Sys2Proof

/-- The two engines (00_scope.md R8). -/
inductive Engine where
  | packer
  | unpacker
  deriving DecidableEq, Repr

/-- The parameters of R9 that the spec leaves open (92_eei_decisions.md D11, D12, D13), with its defaults.
Each engine carries its own in State, where no step changes them. -/
structure Params where
  /-- `STR_SCALE`: the `scale` of WSTR, RSTR, WASCII, RASCII -/
  strScale : Nat := 16
  /-- `STR_RANGE`: the `range` of WSTR, RSTR -/
  strRange : Nat := 8
  /-- `ASCII_RANGE`: the `range` of WASCII, RASCII -/
  asciiRange : Nat := 7
  /-- `CNT_W`: the width of the byte counter -/
  cntW : Nat := 64
  /-- `BOUNDARY_W`: the width of the signed operand of WALIGN, RALIGN -/
  boundaryW : Nat := 32
  deriving DecidableEq, Repr

/-- `SCALE_MAX` (R9): the largest legal `scale`; the smallest is 1. -/
def Config.scaleMax : Nat := 31

/-- `RANGE_MAX` (R9): the largest legal `range`; the smallest is 1. -/
def Config.rangeMax : Nat := 8

/-- `CHAR_MAX` (R9): the largest size of a char field. -/
def Config.charMax : Nat := 16

/-- A configured pair of the string commands is a legal scale and range (43_variable_length_codec.md
R201, R202, R206). -/
def Params.wf (c : Params) : Bool :=
  1 ≤ c.strScale && c.strScale ≤ Config.scaleMax &&
  1 ≤ c.strRange && c.strRange ≤ Config.rangeMax &&
  1 ≤ c.asciiRange && c.asciiRange ≤ Config.rangeMax

/-- Free value (60_exceptions.md R261, log 4): `cursor` of an engine after its n-th ERR_IO. -/
opaque Config.drawCursor : Engine → Nat → BitVec 3

/-- Free value (60_exceptions.md R261, log 4): `partial` of an engine after its n-th ERR_IO. -/
opaque Config.drawPartial : Engine → Nat → BitVec 8

/-- Free value (log 29): `RESULT` of an alignment of that many bits, when the number does not fit 64 bits. -/
opaque Config.overlongPadding : Nat → BitVec 64

end Sys2Proof
end

