-- ==== Sys2Proof/Syntax.lean ====
section
/-! DEFINITION. The twenty commands as syntax (30_encoding.md R101): one constructor per row of
spec/opcode_table.json. Sizes, scales, ranges and lengths are natural numbers, a boundary is an
integer (00_scope.md R15); values are the bits of `VALUE` that R95 says the command uses. The bits of
`VALUE` that R95 calls ignored are not part of a command. -/

namespace Sys2Proof

/-- BITIO's `unsigned` parameter, the field `U` (30_encoding.md R92): 1 = unsigned, 0 = signed. -/
inductive Signedness where
  | unsigned
  | signed
  deriving DecidableEq, Repr

/-- The four native widths (00_scope.md R9). -/
inductive Native where
  | byte
  | short
  | int
  | long
  deriving DecidableEq, Repr

/-- `W`: 8, 16, 32 or 64 (00_scope.md R9). -/
def Native.width : Native → Nat
  | .byte => 8
  | .short => 16
  | .int => 32
  | .long => 64

inductive Instr where
  /-- 0x10 WBOOL: `b = VALUE[0]` (41_bit_packer.md R129) -/
  | wbool (b : Bool)
  /-- 0x11 WBYTE (R130) -/
  | wbyte (u : Signedness) (size : Nat) (value : BitVec 8)
  /-- 0x12 WSHORT (R131) -/
  | wshort (u : Signedness) (size : Nat) (value : BitVec 16)
  /-- 0x13 WINT (R132) -/
  | wint (u : Signedness) (size : Nat) (value : BitVec 32)
  /-- 0x14 WLONG (R133) -/
  | wlong (u : Signedness) (size : Nat) (value : BitVec 64)
  /-- 0x15 WCHAR (R134) -/
  | wchar (size : Nat) (value : BitVec 16)
  /-- 0x16 WALIGN (R135) -/
  | walign (boundary : Int)
  /-- 0x17 WBYTES: `len` payload bytes follow the word (43_variable_length_codec.md R204) -/
  | wbytes (scale range len : Nat)
  /-- 0x18 WSTR: `len` payload bytes follow the word (R207) -/
  | wstr (len : Nat)
  /-- 0x19 WASCII: `len` payload bytes follow the word (R209) -/
  | wascii (len : Nat)
  /-- 0x20 RBOOL (42_bit_unpacker.md R167) -/
  | rbool
  /-- 0x21 RBYTE (R168) -/
  | rbyte (u : Signedness) (size : Nat)
  /-- 0x22 RSHORT (R169) -/
  | rshort (u : Signedness) (size : Nat)
  /-- 0x23 RINT (R170) -/
  | rint (u : Signedness) (size : Nat)
  /-- 0x24 RLONG (R171) -/
  | rlong (u : Signedness) (size : Nat)
  /-- 0x25 RCHAR (R172) -/
  | rchar (size : Nat)
  /-- 0x26 RALIGN (R173) -/
  | ralign (boundary : Int)
  /-- 0x27 RBYTES (43_variable_length_codec.md R205) -/
  | rbytes (scale range : Nat)
  /-- 0x28 RSTR (R208) -/
  | rstr
  /-- 0x29 RASCII (R210) -/
  | rascii
  deriving DecidableEq, Repr

/-- The engine whose command it is (30_encoding.md R91). -/
def Instr.engine : Instr → Engine
  | .wbool _ => .packer
  | .wbyte _ _ _ => .packer
  | .wshort _ _ _ => .packer
  | .wint _ _ _ => .packer
  | .wlong _ _ _ => .packer
  | .wchar _ _ => .packer
  | .walign _ => .packer
  | .wbytes _ _ _ => .packer
  | .wstr _ => .packer
  | .wascii _ => .packer
  | .rbool => .unpacker
  | .rbyte _ _ => .unpacker
  | .rshort _ _ => .unpacker
  | .rint _ _ => .unpacker
  | .rlong _ _ => .unpacker
  | .rchar _ => .unpacker
  | .ralign _ => .unpacker
  | .rbytes _ _ => .unpacker
  | .rstr => .unpacker
  | .rascii => .unpacker

/-- How many payload bytes follow the command word (30_encoding.md R96). -/
def Instr.payloadLength : Instr → Nat
  | .wbool _ => 0
  | .wbyte _ _ _ => 0
  | .wshort _ _ _ => 0
  | .wint _ _ _ => 0
  | .wlong _ _ _ => 0
  | .wchar _ _ => 0
  | .walign _ => 0
  | .wbytes _ _ len => len
  | .wstr len => len
  | .wascii len => len
  | .rbool => 0
  | .rbyte _ _ => 0
  | .rshort _ _ => 0
  | .rint _ _ => 0
  | .rlong _ _ => 0
  | .rchar _ => 0
  | .ralign _ => 0
  | .rbytes _ _ => 0
  | .rstr => 0
  | .rascii => 0

/-- The row's name in spec/opcode_table.json (30_encoding.md R101). -/
def Instr.mnemonic : Instr → String
  | .wbool _ => "WBOOL"
  | .wbyte _ _ _ => "WBYTE"
  | .wshort _ _ _ => "WSHORT"
  | .wint _ _ _ => "WINT"
  | .wlong _ _ _ => "WLONG"
  | .wchar _ _ => "WCHAR"
  | .walign _ => "WALIGN"
  | .wbytes _ _ _ => "WBYTES"
  | .wstr _ => "WSTR"
  | .wascii _ => "WASCII"
  | .rbool => "RBOOL"
  | .rbyte _ _ => "RBYTE"
  | .rshort _ _ => "RSHORT"
  | .rint _ _ => "RINT"
  | .rlong _ _ => "RLONG"
  | .rchar _ => "RCHAR"
  | .ralign _ => "RALIGN"
  | .rbytes _ _ => "RBYTES"
  | .rstr => "RSTR"
  | .rascii => "RASCII"

end Sys2Proof
end

