-- ==== Sys2Proof/WellFormed.lean ====
section
/-! DEFINITION. Which terms of Instr a command word can carry: every field fits the bits that
30_encoding.md R90 gives it. Whether the operands are LEGAL (44_width_validation.md) is not asked here:
an illegal `size` is a well-formed command that ends with ERR_VALIDATION. -/

namespace Sys2Proof

/-- `SIZE`, `SCALE` and `RANGE` are fields of 8 bits (30_encoding.md R90, R93). -/
def fitsByte (n : Nat) : Bool := decide (n < 2 ^ 8)

/-- `LEN` is a field of 32 bits (30_encoding.md R95). -/
def fitsLength (n : Nat) : Bool := decide (n < 2 ^ 32)

/-- `BOUNDARY` is a signed field of `BOUNDARY_W` bits, 32 by default (30_encoding.md R95, 00_scope.md R9). -/
def fitsBoundary (boundaryW : Nat) (b : Int) : Bool :=
  decide (-2 ^ (boundaryW - 1) ≤ b) && decide (b < 2 ^ (boundaryW - 1))

/-- A word of an engine built with this `BOUNDARY_W` can carry the command. -/
def Instr.wellFormed (i : Instr) (boundaryW : Nat := 32) : Bool :=
  match i with
  | .wbool _ => true
  | .wbyte _ size _ => fitsByte size
  | .wshort _ size _ => fitsByte size
  | .wint _ size _ => fitsByte size
  | .wlong _ size _ => fitsByte size
  | .wchar size _ => fitsByte size
  | .walign boundary => fitsBoundary boundaryW boundary
  | .wbytes scale range len => fitsByte scale && fitsByte range && fitsLength len
  | .wstr len => fitsLength len
  | .wascii len => fitsLength len
  | .rbool => true
  | .rbyte _ size => fitsByte size
  | .rshort _ size => fitsByte size
  | .rint _ size => fitsByte size
  | .rlong _ size => fitsByte size
  | .rchar size => fitsByte size
  | .ralign boundary => fitsBoundary boundaryW boundary
  | .rbytes scale range => fitsByte scale && fitsByte range
  | .rstr => true
  | .rascii => true

end Sys2Proof
end

