-- ==== Sys2Proof/Decode.lean ====
section
/-! DEFINITION. The command word (30_encoding.md part B): its fields, the decoder, total on all 96-bit
words and rejecting by name, and after it the encoder. -/

namespace Sys2Proof

/-- The fields of a command word (30_encoding.md R90). -/
structure Fields where
  /-- bits 95:88 -/
  opc : BitVec 8
  /-- bits 87:81, must be 0 -/
  rsv : BitVec 7
  /-- bit 80 -/
  u : BitVec 1
  /-- bits 79:72, `SIZE` or `SCALE` -/
  size : BitVec 8
  /-- bits 71:64 -/
  range : BitVec 8
  /-- bits 63:0 -/
  value : BitVec 64
  deriving DecidableEq, Repr

/-- The fields of a word (R90). -/
def Fields.ofWord (w : CommandWord) : Fields where
  opc := w.extractLsb' 88 8
  rsv := w.extractLsb' 81 7
  u := w.extractLsb' 80 1
  size := w.extractLsb' 72 8
  range := w.extractLsb' 64 8
  value := w.extractLsb' 0 64

/-- The word that holds the fields (R90). -/
def Fields.toWord (f : Fields) : CommandWord :=
  f.opc ++ f.rsv ++ f.u ++ f.size ++ f.range ++ f.value

/-- Why a word is illegal (30_encoding.md R102). Every one of them is answered the same way. -/
inductive DecodeError where
  /-- `OPC` is no command's -/
  | reservedOpcode
  /-- `OPC` is a command of the other engine -/
  | otherEngine
  /-- `RSV` is not 0 -/
  | reservedBits
  /-- `U` must be 0 in this command -/
  | strayU
  /-- `SIZE` must be 0 in this command -/
  | straySize
  /-- `RANGE` must be 0 in this command -/
  | strayRange
  /-- the bits of `VALUE` that must be 0 in this command are not -/
  | strayValue
  deriving DecidableEq, Repr

/-- Accept `i` unless one of the must-be-zero checks fails (R101: every field not listed must be 0). -/
def unlessStray (checks : List (Bool × DecodeError)) (i : Instr) : Except DecodeError Instr :=
  match checks.find? (fun c => c.1) with
  | some c => .error c.2
  | none => .ok i

/-- `U` (R92): 1 = unsigned, 0 = signed. -/
def signednessOf (u : BitVec 1) : Signedness :=
  if u = 1#1 then .unsigned else .signed

/-- `BOUNDARY = sint_W(VALUE[W-1:0])`, `W` the parameter `BOUNDARY_W` (R95 with its default 32, 00_scope.md
R9, D13; log 8). -/
def Fields.boundary (f : Fields) (boundaryW : Nat) : Int := (f.value.extractLsb' 0 boundaryW).toInt

/-- `LEN = uint(VALUE[31:0])` (R95). -/
def Fields.len (f : Fields) : Nat := (f.value.extractLsb' 0 32).toNat

def Fields.strayU (f : Fields) : Bool × DecodeError := (f.u != 0#1, .strayU)

def Fields.straySize (f : Fields) : Bool × DecodeError := (f.size != 0#8, .straySize)

def Fields.strayRange (f : Fields) : Bool × DecodeError := (f.range != 0#8, .strayRange)

/-- `VALUE` must be 0 (R95, the reads). -/
def Fields.strayValue (f : Fields) : Bool × DecodeError := (f.value != 0#64, .strayValue)

/-- `VALUE[63:32]` must be 0 (R95, the byte-sequence writes). -/
def Fields.strayValueHigh (f : Fields) : Bool × DecodeError :=
  (f.value.extractLsb' 32 32 != 0#32, .strayValue)

/-- The opcode map (R101) on the fields of a word, for an engine built with this `BOUNDARY_W`. -/
def decodeFields (f : Fields) (boundaryW : Nat := 32) : Except DecodeError Instr :=
  if f.rsv ≠ 0#7 then .error .reservedBits
  else match f.opc.toNat with
    | 0x10 => unlessStray [f.strayU, f.straySize, f.strayRange] (.wbool (f.value.getLsbD 0))
    | 0x11 => unlessStray [f.strayRange]
        (.wbyte (signednessOf f.u) f.size.toNat (f.value.extractLsb' 0 8))
    | 0x12 => unlessStray [f.strayRange]
        (.wshort (signednessOf f.u) f.size.toNat (f.value.extractLsb' 0 16))
    | 0x13 => unlessStray [f.strayRange]
        (.wint (signednessOf f.u) f.size.toNat (f.value.extractLsb' 0 32))
    | 0x14 => unlessStray [f.strayRange] (.wlong (signednessOf f.u) f.size.toNat f.value)
    | 0x15 => unlessStray [f.strayU, f.strayRange]
        (.wchar f.size.toNat (f.value.extractLsb' 0 16))
    | 0x16 => unlessStray [f.strayU, f.straySize, f.strayRange] (.walign (f.boundary boundaryW))
    | 0x17 => unlessStray [f.strayU, f.strayValueHigh]
        (.wbytes f.size.toNat f.range.toNat f.len)
    | 0x18 => unlessStray [f.strayU, f.straySize, f.strayRange, f.strayValueHigh] (.wstr f.len)
    | 0x19 => unlessStray [f.strayU, f.straySize, f.strayRange, f.strayValueHigh] (.wascii f.len)
    | 0x20 => unlessStray [f.strayU, f.straySize, f.strayRange, f.strayValue] .rbool
    | 0x21 => unlessStray [f.strayRange, f.strayValue] (.rbyte (signednessOf f.u) f.size.toNat)
    | 0x22 => unlessStray [f.strayRange, f.strayValue] (.rshort (signednessOf f.u) f.size.toNat)
    | 0x23 => unlessStray [f.strayRange, f.strayValue] (.rint (signednessOf f.u) f.size.toNat)
    | 0x24 => unlessStray [f.strayRange, f.strayValue] (.rlong (signednessOf f.u) f.size.toNat)
    | 0x25 => unlessStray [f.strayU, f.strayRange, f.strayValue] (.rchar f.size.toNat)
    | 0x26 => unlessStray [f.strayU, f.straySize, f.strayRange] (.ralign (f.boundary boundaryW))
    | 0x27 => unlessStray [f.strayU, f.strayValue] (.rbytes f.size.toNat f.range.toNat)
    | 0x28 => unlessStray [f.strayU, f.straySize, f.strayRange, f.strayValue] .rstr
    | 0x29 => unlessStray [f.strayU, f.straySize, f.strayRange, f.strayValue] .rascii
    | _ => .error .reservedOpcode

/-- The command a 96-bit word stands for, or why it is illegal for both engines (R101, R102). `BOUNDARY_W`
is an argument with the default of 00_scope.md R9. -/
def decode (w : CommandWord) (boundaryW : Nat := 32) : Except DecodeError Instr :=
  decodeFields (Fields.ofWord w) boundaryW

/-- The command a word stands for on the command port of engine `e` (R91, R102: a command of the other
engine is illegal). -/
def decodeFor (e : Engine) (w : CommandWord) (boundaryW : Nat := 32) : Except DecodeError Instr :=
  match decode w boundaryW with
  | .ok i => if i.engine = e then .ok i else .error .otherEngine
  | .error err => .error err

/-- How many payload bytes belong to a word, by `OPC` and `LEN` alone, legal or not (R96, R102). -/
def wordPayloadLength (w : CommandWord) : Nat :=
  match (Fields.ofWord w).opc.toNat with
  | 0x17 => (Fields.ofWord w).len
  | 0x18 => (Fields.ofWord w).len
  | 0x19 => (Fields.ofWord w).len
  | _ => 0

/-- The engine whose command port a word is meant for (R91: `OPC[7:4]` is 0x1 for `PACKER`, 0x2 for
`UNPACKER`); a word of neither goes to `PACKER` here, where it is illegal all the same. -/
def wordEngine (w : CommandWord) : Engine :=
  if w.extractLsb' 92 4 = 0x2#4 then .unpacker else .packer

/-- The decoder on a word numbered as spec/opcode_table.json numbers it: one word of 96 bits, bit 0 its
least significant bit; `BOUNDARY_W` at its default. -/
def decodeTableWord (nbits w : Nat) : Option Instr :=
  match decode (BitVec.ofNat 96 (w % 2 ^ nbits)) with
  | .ok i => some i
  | .error _ => none

/-! The encoder, from the same table. -/

/-- The bit `U` of a command (R92). -/
def uBit : Signedness → BitVec 1
  | .unsigned => 1#1
  | .signed => 0#1

/-- `VALUE` of an alignment: the boundary as 64-bit two's complement (R104). Every `BOUNDARY_W` that the
boundary fits reads it back from the low bits. -/
def boundaryField (b : Int) : BitVec 64 := BitVec.ofInt 64 b

/-- The fields of a command (R101). Ignored bits of `VALUE` are 0, but for a
boundary, which fills `VALUE` (R104). -/
def Instr.fields : Instr → Fields
  | .wbool b => ⟨0x10#8, 0#7, 0#1, 0#8, 0#8, (BitVec.ofBool b).setWidth 64⟩
  | .wbyte u size v => ⟨0x11#8, 0#7, uBit u, BitVec.ofNat 8 size, 0#8, v.setWidth 64⟩
  | .wshort u size v => ⟨0x12#8, 0#7, uBit u, BitVec.ofNat 8 size, 0#8, v.setWidth 64⟩
  | .wint u size v => ⟨0x13#8, 0#7, uBit u, BitVec.ofNat 8 size, 0#8, v.setWidth 64⟩
  | .wlong u size v => ⟨0x14#8, 0#7, uBit u, BitVec.ofNat 8 size, 0#8, v⟩
  | .wchar size v => ⟨0x15#8, 0#7, 0#1, BitVec.ofNat 8 size, 0#8, v.setWidth 64⟩
  | .walign b => ⟨0x16#8, 0#7, 0#1, 0#8, 0#8, boundaryField b⟩
  | .wbytes scale range len =>
      ⟨0x17#8, 0#7, 0#1, BitVec.ofNat 8 scale, BitVec.ofNat 8 range, BitVec.ofNat 64 len⟩
  | .wstr len => ⟨0x18#8, 0#7, 0#1, 0#8, 0#8, BitVec.ofNat 64 len⟩
  | .wascii len => ⟨0x19#8, 0#7, 0#1, 0#8, 0#8, BitVec.ofNat 64 len⟩
  | .rbool => ⟨0x20#8, 0#7, 0#1, 0#8, 0#8, 0#64⟩
  | .rbyte u size => ⟨0x21#8, 0#7, uBit u, BitVec.ofNat 8 size, 0#8, 0#64⟩
  | .rshort u size => ⟨0x22#8, 0#7, uBit u, BitVec.ofNat 8 size, 0#8, 0#64⟩
  | .rint u size => ⟨0x23#8, 0#7, uBit u, BitVec.ofNat 8 size, 0#8, 0#64⟩
  | .rlong u size => ⟨0x24#8, 0#7, uBit u, BitVec.ofNat 8 size, 0#8, 0#64⟩
  | .rchar size => ⟨0x25#8, 0#7, 0#1, BitVec.ofNat 8 size, 0#8, 0#64⟩
  | .ralign b => ⟨0x26#8, 0#7, 0#1, 0#8, 0#8, boundaryField b⟩
  | .rbytes scale range => ⟨0x27#8, 0#7, 0#1, BitVec.ofNat 8 scale, BitVec.ofNat 8 range, 0#64⟩
  | .rstr => ⟨0x28#8, 0#7, 0#1, 0#8, 0#8, 0#64⟩
  | .rascii => ⟨0x29#8, 0#7, 0#1, 0#8, 0#8, 0#64⟩

/-- The command word of a command (R90, R101). -/
def encode (i : Instr) : CommandWord := i.fields.toWord

/-- A row of the table of R101: a word `w` selects the row when `w &&& mask = pattern`. -/
structure TableRow where
  mnemonic : String
  pattern : CommandWord
  mask : CommandWord
  deriving DecidableEq, Repr

/-- The `match` and `mask` columns of R101, word for word: the writes. -/
def opcodeTableWrites : List TableRow :=
  [ ⟨"WBOOL", 0x100000000000000000000000#96, 0xFFFFFFFF0000000000000000#96⟩,
    ⟨"WBYTE", 0x110000000000000000000000#96, 0xFFFE00FF0000000000000000#96⟩,
    ⟨"WSHORT", 0x120000000000000000000000#96, 0xFFFE00FF0000000000000000#96⟩,
    ⟨"WINT", 0x130000000000000000000000#96, 0xFFFE00FF0000000000000000#96⟩,
    ⟨"WLONG", 0x140000000000000000000000#96, 0xFFFE00FF0000000000000000#96⟩,
    ⟨"WCHAR", 0x150000000000000000000000#96, 0xFFFF00FF0000000000000000#96⟩,
    ⟨"WALIGN", 0x160000000000000000000000#96, 0xFFFFFFFF0000000000000000#96⟩,
    ⟨"WBYTES", 0x170000000000000000000000#96, 0xFFFF0000FFFFFFFF00000000#96⟩,
    ⟨"WSTR", 0x180000000000000000000000#96, 0xFFFFFFFFFFFFFFFF00000000#96⟩,
    ⟨"WASCII", 0x190000000000000000000000#96, 0xFFFFFFFFFFFFFFFF00000000#96⟩ ]

/-- The `match` and `mask` columns of R101, word for word: the reads. -/
def opcodeTableReads : List TableRow :=
  [ ⟨"RBOOL", 0x200000000000000000000000#96, 0xFFFFFFFFFFFFFFFFFFFFFFFF#96⟩,
    ⟨"RBYTE", 0x210000000000000000000000#96, 0xFFFE00FFFFFFFFFFFFFFFFFF#96⟩,
    ⟨"RSHORT", 0x220000000000000000000000#96, 0xFFFE00FFFFFFFFFFFFFFFFFF#96⟩,
    ⟨"RINT", 0x230000000000000000000000#96, 0xFFFE00FFFFFFFFFFFFFFFFFF#96⟩,
    ⟨"RLONG", 0x240000000000000000000000#96, 0xFFFE00FFFFFFFFFFFFFFFFFF#96⟩,
    ⟨"RCHAR", 0x250000000000000000000000#96, 0xFFFF00FFFFFFFFFFFFFFFFFF#96⟩,
    ⟨"RALIGN", 0x260000000000000000000000#96, 0xFFFFFFFF0000000000000000#96⟩,
    ⟨"RBYTES", 0x270000000000000000000000#96, 0xFFFF0000FFFFFFFFFFFFFFFF#96⟩,
    ⟨"RSTR", 0x280000000000000000000000#96, 0xFFFFFFFFFFFFFFFFFFFFFFFF#96⟩,
    ⟨"RASCII", 0x290000000000000000000000#96, 0xFFFFFFFFFFFFFFFFFFFFFFFF#96⟩ ]

/-- The whole table of R101. -/
def opcodeTable : List TableRow := opcodeTableWrites ++ opcodeTableReads

end Sys2Proof
end

