-- ==== Sys2Proof/Machine/State.lean ====
section
/-! DEFINITION. The state of the machine (10_state.md), plain data: the two engines, what stands at their
ports, and the host's events. What the spec calls an input of the step (the answers of sink and source,
`bound`, `rst` during a command, the commands themselves; 20_memory.md R56, 10_state.md R31) stands here
too, because the step is a function of the state alone; nothing constrains it. -/

namespace Sys2Proof.Machine

/-- The environment's answer to one offer or request of a byte (20_memory.md R51, R54; 93 U6). -/
inductive Answer where
  /-- the byte is accepted, or delivered if there is one -/
  | ok
  /-- the transfer fails -/
  | fail
  /-- the environment never answers (70_reset_and_hazards.md R306) -/
  | never
  deriving DecidableEq, Repr

/-- The oracle of R56: the answers to come, next first, and the one given to every offer after them. -/
structure Oracle where
  script : List Answer
  afterwards : Answer
  deriving DecidableEq, Repr

/-- The four statuses of a response (30_encoding.md R98); no other code is ever produced (93 U12). -/
inductive Status where
  | ok
  | errValidation
  | errState
  | errIo
  deriving DecidableEq, Repr

/-- A response (30_encoding.md R97): `STATUS`, `RESULT`, and the response payload of RBYTES, RSTR and
RASCII. -/
structure Response where
  status : Status
  result : BitVec 64
  payload : List Byte
  deriving DecidableEq, Repr

/-- Engine `PACKER` (10_state.md R20) with what stands at its ports. -/
structure Packer where
  /-- `W.partial` (R21): `W.partial[i]` is the bit of index `i` from the most significant side -/
  partialByte : BitVec 8
  /-- `W.cursor` (R22) -/
  cursor : BitVec 3
  /-- `W.count` (R23), a natural number below `2^CNT_W` (R39) -/
  count : Nat
  /-- `W.faulted` (R29) -/
  faulted : Bool
  /-- the input `W.bound` (R31) -/
  bound : Bool
  /-- `SINK`: the bytes the sink has accepted, oldest first (20_memory.md R50) -/
  sink : List Byte
  /-- the answers of the sink (20_memory.md R52, R56) -/
  answers : Oracle
  /-- the bytes the host holds on the command payload port, next first (30_encoding.md R88, R96) -/
  payload : List Byte
  /-- the response on the response port, if one is pending (30_encoding.md R97, 70 R304) -/
  response : Option Response
  /-- `rst` while a command executes (70 R292): after how many further transfers the host asserts it -/
  cut : Option Nat
  /-- how often `cursor` and `partial` were drawn after ERR_IO: the model's own (60 R261, log 5) -/
  draws : Nat
  /-- the parameters the engine was built with (00_scope.md R9) -/
  params : Params
  deriving DecidableEq, Repr

/-- Engine `UNPACKER` (10_state.md R25) with what stands at its ports. -/
structure Unpacker where
  /-- `R.partial` (R25): the last byte pulled -/
  partialByte : BitVec 8
  /-- `R.cursor` (R26) -/
  cursor : BitVec 3
  /-- `R.count` (R27), a natural number below `2^CNT_W` (R39) -/
  count : Nat
  /-- `R.faulted` (R29) -/
  faulted : Bool
  /-- the input `R.bound` (R31) -/
  bound : Bool
  /-- `SRC`: the bytes the source has yet to deliver, next first (20_memory.md R53) -/
  source : List Byte
  /-- the answers of the source (20_memory.md R55, R56) -/
  answers : Oracle
  /-- the response on the response port, if one is pending (30_encoding.md R97, 70 R304) -/
  response : Option Response
  /-- `rst` while a command executes (70 R292): after how many further transfers the host asserts it -/
  cut : Option Nat
  /-- how often `cursor` and `partial` were drawn after ERR_IO: the model's own (60 R261, log 5) -/
  draws : Nat
  /-- the parameters the engine was built with (00_scope.md R9) -/
  params : Params
  deriving DecidableEq, Repr

/-- What the host does next (70_reset_and_hazards.md). A step reads one event. -/
inductive HostEvent where
  /-- present `word` on the command port of `PACKER`, with `payload` on its payload port (30 R96);
  `rst = some k`: assert `rst` while the command executes, once `k` of its transfers are done (70 R292) -/
  | packerCommand (word : CommandWord) (payload : List Byte) (rst : Option Nat)
  /-- present `word` on the command port of `UNPACKER`; `rst` as above -/
  | unpackerCommand (word : CommandWord) (rst : Option Nat)
  /-- take the pending response of an engine, with its payload (70 R304) -/
  | takeResponse (e : Engine)
  /-- assert `rst` of an engine that executes no command (70 R290, R291) -/
  | reset (e : Engine)
  /-- drive the `bound` input of an engine (10 R31) -/
  | bound (e : Engine) (level : Bool)
  /-- attach a byte source positioned at the first of `bytes` (70 R293) -/
  | attachSource (bytes : List Byte)
  deriving DecidableEq, Repr

/-- The whole machine: two engines that share nothing (00_scope.md R8), and the host's events, next
first. -/
structure State where
  w : Packer
  r : Unpacker
  host : List HostEvent
  deriving DecidableEq, Repr

/-- The stops after which the machine has no next state, neither engine of it (log 28). -/
inductive Fault where
  /-- raised by a `SinkPut` that the environment never answers (70 R306, 93 U6: stuck); safe -/
  | sinkSilent
  /-- raised by a `SrcGet` that the environment never answers (70 R306, 93 U6: stuck); safe -/
  | sourceSilent
  /-- raised when the host presents fewer than `LEN` payload bytes and does not reset (70 R301,
  93 U10: stuck); safe -/
  | payloadMissing
  deriving DecidableEq, Repr

/-- The cases the spec tells a model to refuse. -/
inductive Refusal where
  /-- raised by `exec`'s arm of a command that has no meaning yet; safe. No arm of this model does. -/
  | notModelled (mnemonic : String)
  /-- raised by a transfer that would increment a counter at `2^CNT_W - 1` (10 R39, 93 U5: refuse);
  safe -/
  | counterOverflow
  /-- raised when a command is presented before the response of the one before it was taken (70 R295,
  93 U8: refuse); safe -/
  | engineBusy
  deriving DecidableEq, Repr

/-- `PACKER` after reset (10_state.md R37), bound to a sink that accepts every byte (log 2). -/
def Packer.initial : Packer where
  partialByte := 0#8
  cursor := 0#3
  count := 0
  faulted := false
  bound := true
  sink := []
  answers := ⟨[], .ok⟩
  payload := []
  response := none
  cut := none
  draws := 0
  params := {}

/-- `UNPACKER` after reset (10_state.md R37), bound to an empty source (log 2). -/
def Unpacker.initial : Unpacker where
  partialByte := 0#8
  cursor := 0#3
  count := 0
  faulted := false
  bound := true
  source := []
  answers := ⟨[], .ok⟩
  response := none
  cut := none
  draws := 0
  params := {}

/-- The machine right after reset, no event of the host at hand (10_state.md R37, 70 R291). -/
def State.reset : State where
  w := Packer.initial
  r := Unpacker.initial
  host := []

end Sys2Proof.Machine
end

