-- ==== Sys2Proof/Machine/Operands.lean ====
section
/-! DEFINITION. Operands and results: bit strings of values and values of bit strings (00_scope.md R10),
the legality of sizes, scales, ranges, lengths and boundaries (44_width_validation.md,
43_variable_length_codec.md R201 to R203), and the response word (30_encoding.md R97, R98). -/

namespace Sys2Proof.Machine

/-- The low `n` bits of `v` as the `n`-bit vector `v[n-1:0]`, most significant bit first (30 R81). -/
def bitsOf {m : Nat} (v : BitVec m) : Nat → Bits
  | 0 => []
  | n + 1 => v.getLsbD n :: bitsOf v n

/-- `uint(v)` (00_scope.md R10). -/
def uint : Bits → Nat
  | [] => 0
  | b :: v => b.toNat * 2 ^ v.length + uint v

/-- `sint_n(v)` of an `n`-bit `v` (00_scope.md R10). -/
def sint (v : Bits) : Int :=
  match v with
  | [] => 0
  | b :: _ => (uint v : Int) - (b.toNat : Int) * 2 ^ v.length

/-- `zext_64(v)` (00_scope.md R10). -/
def zext64 (v : Bits) : BitVec 64 := BitVec.ofNat 64 (uint v)

/-- `sext_64(v)` (00_scope.md R10). -/
def sext64 (v : Bits) : BitVec 64 := BitVec.ofInt 64 (sint v)

/-- `zext_8(v)` (00_scope.md R10). -/
def zext8 (v : Bits) : Byte := BitVec.ofNat 8 (uint v)

/-- Legal size of a numeric field (44_width_validation.md R231, R232, R233). -/
def legalSize (n : Native) (u : Signedness) (size : Nat) : Bool :=
  match u with
  | .unsigned => 1 ≤ size && size ≤ n.width - 1
  | .signed => 2 ≤ size && size ≤ n.width

/-- Legal size of a char field (44_width_validation.md R234). -/
def legalChar (size : Nat) : Bool := 1 ≤ size && size ≤ Config.charMax

/-- Legal alignment boundary (44_width_validation.md R235). -/
def legalBoundary (boundary : Int) : Bool := decide (1 ≤ boundary)

/-- Legal `scale` (43_variable_length_codec.md R201). -/
def legalScale (scale : Nat) : Bool := 1 ≤ scale && scale ≤ Config.scaleMax

/-- Legal `range` (43_variable_length_codec.md R202). -/
def legalRange (range : Nat) : Bool := 1 ≤ range && range ≤ Config.rangeMax

/-- Legal operands of a byte-sequence write (43_variable_length_codec.md R201, R202, R203). -/
def legalSequence (scale range len : Nat) : Bool :=
  legalScale scale && legalRange range && decide (len < 2 ^ scale)

/-- The status codes (30_encoding.md R98). -/
def Status.code : Status → BitVec 8
  | .ok => 0x00#8
  | .errValidation => 0x01#8
  | .errState => 0x02#8
  | .errIo => 0x03#8

/-- `RESULT` of an alignment: `zext_64` of the number of padding bits (30_encoding.md R99); a free value
when the number does not fit 64 bits, of which R99 says nothing (log 29). -/
def paddingResult (bits : Nat) : BitVec 64 :=
  if bits < 2 ^ 64 then BitVec.ofNat 64 bits else Config.overlongPadding bits

/-- The 72-bit response word: `RSP[71:64] = STATUS`, `RSP[63:0] = RESULT` (30_encoding.md R97). -/
def Response.word (r : Response) : BitVec 72 := r.status.code ++ r.result

end Sys2Proof.Machine
end

