-- ==== Sys2Proof/Machine/Flags.lean ====
section
/-! DEFINITION. The only flag of an engine, `faulted` (10_state.md R29, R30), where it is read and where
it is set, and the status outputs (10_state.md R32). -/

namespace Sys2Proof.Machine

/-- The state check of step 4 (60_exceptions.md R252): bound and not faulted. -/
def Packer.usable (p : Packer) : Bool := p.bound && !p.faulted

/-- The state check of step 4 (60_exceptions.md R252): bound and not faulted. -/
def Unpacker.usable (q : Unpacker) : Bool := q.bound && !q.faulted

/-- ERR_IO sets `faulted` (60_exceptions.md R262); `cursor` and `partial` become a draw (R261). -/
def Packer.latch (p : Packer) : Packer :=
  { p with
    faulted := true
    cursor := Config.drawCursor .packer p.draws
    partialByte := Config.drawPartial .packer p.draws
    draws := p.draws + 1 }

/-- ERR_IO sets `faulted` (60_exceptions.md R262); `cursor` and `partial` become a draw (R261). -/
def Unpacker.latch (q : Unpacker) : Unpacker :=
  { q with
    faulted := true
    cursor := Config.drawCursor .unpacker q.draws
    partialByte := Config.drawPartial .unpacker q.draws
    draws := q.draws + 1 }

/-- What the status outputs of `PACKER` show between commands: `cursor`, `count`, `faulted` (R32). -/
def Packer.statusOutputs (p : Packer) : BitVec 3 × Nat × Bool := (p.cursor, p.count, p.faulted)

/-- What the status outputs of `UNPACKER` show between commands: `cursor`, `count`, `faulted` (R32). -/
def Unpacker.statusOutputs (q : Unpacker) : BitVec 3 × Nat × Bool := (q.cursor, q.count, q.faulted)

end Sys2Proof.Machine
end

