-- ==== Sys2Proof/Machine/Ops.lean ====
section
/-! DEFINITION. The shared operations: the two transfers (20_memory.md R52, R55), how a procedure ends,
reset (70 R291), the response (30_encoding.md R97), the errors (60_exceptions.md), and the order of work
that all commands share (30_encoding.md R103). -/

namespace Sys2Proof.Machine

/-- Why a procedure ended before its end. -/
inductive Halt where
  /-- `raise ERR_IO` (60_exceptions.md R253) -/
  | io
  /-- the host asserted `rst` (70 R292) -/
  | rst
  /-- the environment never answers (70 R306) -/
  | silent
  /-- a counter would pass `2^CNT_W - 1` (10_state.md R39) -/
  | overflow
  deriving DecidableEq, Repr

/-- How a procedure of the spec's pseudocode ends: it returns `a`, or it halts; both with the engine as
it then is. -/
inductive Run (σ α : Type) where
  | done (a : α) (s : σ)
  | halted (h : Halt) (s : σ)
  deriving DecidableEq, Repr

/-- One procedure after another (00_scope.md R12: `raise` ends the command at once). -/
def Run.bind {σ α β : Type} (x : Run σ α) (f : α → σ → Run σ β) : Run σ β :=
  match x with
  | .done a s => f a s
  | .halted h s => .halted h s

/-- The environment's next answer, and the oracle after it (20_memory.md R56). -/
def Oracle.next (o : Oracle) : Answer × Oracle :=
  match o.script with
  | [] => (o.afterwards, o)
  | a :: rest => (a, { o with script := rest })

/-- One more transfer is done: what is left until the host asserts `rst` (70 R292). -/
def countdown : Option Nat → Option Nat
  | none => none
  | some k => some (k - 1)

/-- A byte the sink accepts (20_memory.md R52). -/
def Packer.accept (b : Byte) (o : Oracle) (p : Packer) : Packer :=
  { p with answers := o, sink := p.sink ++ [b], count := p.count + 1, cut := countdown p.cut }

/-- `SinkPut(b)` (20_memory.md R52). An offer that `rst` cuts short counts as not made (70 R292); a
counter never passes `2^CNT_W - 1` (10_state.md R39). -/
def Packer.sinkPut (b : Byte) (p : Packer) : Run Packer Unit :=
  if p.cut = some 0 then .halted .rst p
  else match p.answers.next with
    | (.never, _) => .halted .silent p
    | (.fail, o) => .halted .io { p with answers := o }
    | (.ok, o) =>
      if p.count + 1 < 2 ^ p.params.cntW then .done () (p.accept b o)
      else .halted .overflow p

/-- A byte the source delivers: the head of `SRC` is gone, counted, and in `R.partial` (20_memory.md
R55, 10_state.md R25). -/
def Unpacker.deliver (b : Byte) (rest : List Byte) (o : Oracle) (q : Unpacker) : Unpacker :=
  { q with
    answers := o, source := rest, partialByte := b, count := q.count + 1, cut := countdown q.cut }

/-- `SrcGet()` (20_memory.md R55): on an empty `SRC` the answer is fail; otherwise as `SinkPut`. -/
def Unpacker.srcGet (q : Unpacker) : Run Unpacker Byte :=
  if q.cut = some 0 then .halted .rst q
  else match q.answers.next with
    | (.never, _) => .halted .silent q
    | (.fail, o) => .halted .io { q with answers := o }
    | (.ok, o) =>
      match q.source with
      | [] => .halted .io { q with answers := o }
      | b :: rest =>
        if q.count + 1 < 2 ^ q.params.cntW then .done b (q.deliver b rest o)
        else .halted .overflow q

/-- Reset of `PACKER` (70 R291, 10_state.md R37): `SINK` and what the environment and the host hold stay. -/
def Packer.reset (p : Packer) : Packer :=
  { p with
    partialByte := 0#8, cursor := 0#3, count := 0, faulted := false, response := none, cut := none }

/-- Reset of `UNPACKER` (70 R291, 10_state.md R37): `SRC` and what the environment holds stay. -/
def Unpacker.reset (q : Unpacker) : Unpacker :=
  { q with
    partialByte := 0#8, cursor := 0#3, count := 0, faulted := false, response := none, cut := none }

/-- The command ends with a response (30_encoding.md R97), unless the host asserts `rst` first: then no
response is produced and the engine is reset (70 R292). -/
def Packer.respond (a : Response) (p : Packer) : Packer :=
  match p.cut with
  | none => { p with response := some a }
  | some _ => p.reset

/-- The command ends with a response, unless the host asserts `rst` first (as `Packer.respond`). -/
def Unpacker.respond (a : Response) (q : Unpacker) : Unpacker :=
  match q.cut with
  | none => { q with response := some a }
  | some _ => q.reset

/-- The response of an error: `RESULT = 0`, no payload (30_encoding.md R97). -/
def Response.error (st : Status) : Response := ⟨st, 0#64, []⟩

/-- Taking an error (60_exceptions.md R257, R258, R260 to R262): ERR_VALIDATION and ERR_STATE change
nothing but the response port; ERR_IO latches the engine. -/
def Packer.raise (st : Status) (p : Packer) : Packer :=
  match st with
  | .errIo => p.latch.respond (.error .errIo)
  | .errState => p.respond (.error .errState)
  | .errValidation => p.respond (.error .errValidation)
  | .ok => p.respond (.error .ok)

/-- Taking an error (as `Packer.raise`). -/
def Unpacker.raise (st : Status) (q : Unpacker) : Unpacker :=
  match st with
  | .errIo => q.latch.respond (.error .errIo)
  | .errState => q.respond (.error .errState)
  | .errValidation => q.respond (.error .errValidation)
  | .ok => q.respond (.error .ok)

/-- Take the `len` payload bytes of a command off the payload port (30_encoding.md R96); `none` when the
host presents fewer. Surplus bytes stay on the port (93 U10). -/
def Packer.takePayload (len : Nat) (p : Packer) : Option (List Byte × Packer) :=
  if len ≤ p.payload.length then
    some (p.payload.take len, { p with payload := p.payload.drop len })
  else none

/-- Steps 5 and 6 of R103 for `PACKER`: how the end of the command's pseudocode ends the command. DESIGN
CHOICE (log 28), safe: 93 U6 makes a hang `stuck` for that command only; here it ends the step of the whole
machine, so events of `UNPACKER` behind it are not run either. The same holds of a refused counter. -/
def finishPacker (x : Run Packer (BitVec 64)) (s : State) : Host.Outcome State Fault Refusal :=
  match x with
  | .done v p => .next { s with w := p.respond ⟨.ok, v, []⟩ }
  | .halted .io p => .next { s with w := p.raise .errIo }
  | .halted .rst p => .next { s with w := p.reset }
  | .halted .silent _ => .fault .sinkSilent
  | .halted .overflow _ => .refused .counterOverflow

/-- Steps 5 and 6 of R103 for `UNPACKER`; the result comes with the response payload (30 R97). DESIGN
CHOICE (log 28), safe: a hang or a refused counter ends the step of the whole machine, so events of `PACKER`
behind it are not run either. -/
def finishUnpacker (x : Run Unpacker (BitVec 64 × List Byte)) (s : State) :
    Host.Outcome State Fault Refusal :=
  match x with
  | .done v q => .next { s with r := q.respond ⟨.ok, v.1, v.2⟩ }
  | .halted .io q => .next { s with r := q.raise .errIo }
  | .halted .rst q => .next { s with r := q.reset }
  | .halted .silent _ => .fault .sourceSilent
  | .halted .overflow _ => .refused .counterOverflow

/-- Steps 3 to 6 of R103 for `PACKER`, the payload `d` taken: operand validation, state check, the
command's pseudocode `body`, the response. -/
def packerWork (legal : Bool) (body : Packer → Run Packer (BitVec 64)) (p : Packer) (s : State) :
    Host.Outcome State Fault Refusal :=
  if legal = false then .next { s with w := p.raise .errValidation }
  else if p.usable = false then .next { s with w := p.raise .errState }
  else finishPacker (body p) s

/-- The order of work of a `PACKER` command (30_encoding.md R103), `len` its payload length. With fewer
payload bytes at hand the engine waits for ever (70 R301) unless the host asserts `rst`, which drops what
was received (70 R292). DESIGN CHOICE (log 28), safe: the wait is a fault of the whole machine, so events of
`UNPACKER` behind it are not run either. -/
def packerRun (len : Nat) (legal : Bool) (body : List Byte → Packer → Run Packer (BitVec 64))
    (s : State) : Host.Outcome State Fault Refusal :=
  match s.w.takePayload len with
  | some (d, p) => packerWork legal (body d) p s
  | none =>
    match s.w.cut with
    | some _ => .next { s with w := ({ s.w with payload := [] } : Packer).reset }
    | none => .fault .payloadMissing

/-- The order of work of an `UNPACKER` command (30_encoding.md R103). -/
def unpackerRun (legal : Bool) (body : Unpacker → Run Unpacker (BitVec 64 × List Byte)) (s : State) :
    Host.Outcome State Fault Refusal :=
  if legal = false then .next { s with r := s.r.raise .errValidation }
  else if s.r.usable = false then .next { s with r := s.r.raise .errState }
  else finishUnpacker (body s.r) s

/-- An illegal word on the command port of `PACKER` (30_encoding.md R102): ERR_VALIDATION, its payload
taken and dropped. -/
def illegalPacker (w : CommandWord) (s : State) : Host.Outcome State Fault Refusal :=
  packerRun (wordPayloadLength w) false (fun _ p => .done 0#64 p) s

/-- An illegal word on the command port of `UNPACKER` (30_encoding.md R102): ERR_VALIDATION. The engine
has no payload port (R88), so there is nothing to take (log 11). -/
def illegalUnpacker (s : State) : Host.Outcome State Fault Refusal :=
  unpackerRun false (fun q => .done (0#64, []) q) s

end Sys2Proof.Machine
end

