-- ==== Sys2Proof/Machine/WriteProcs.lean ====
section
/-! DEFINITION. The internal procedures of `PACKER` (41_bit_packer.md part 1). They do no validation; each
has the precondition on the length of its bit string that its rule states, and every caller meets it
(R120, 44_width_validation.md R238). -/

namespace Sys2Proof.Machine

/-- `W.partial[i] <- b` (41 R122), `i` counted from the most significant bit (00_scope.md R11). -/
def setPartialBit (x : BitVec 8) (i : Nat) (b : Bool) : BitVec 8 :=
  if b then x ||| (0x80#8 >>> i) else x &&& ~~~(0x80#8 >>> i)

/-- `for k: W.partial[i + k] <- v[size-1-k]` (41 R122). -/
def setPartialBits (x : BitVec 8) (i : Nat) : Bits → BitVec 8
  | [] => x
  | b :: v => setPartialBits (setPartialBit x i b) (i + 1) v

/-- `w_place(size, v)`, `1 <= size <= 8 - W.cursor` (41 R122). The byte with `b[7-i] = W.partial[i]` is
`partialByte` itself. -/
def wPlace (v : Bits) (p : Packer) : Run Packer Unit :=
  let x := setPartialBits p.partialByte p.cursor.toNat v
  if p.cursor.toNat + v.length = 8 then
    ({ p with partialByte := x, cursor := 0#3 } : Packer).sinkPut x
  else .done () { p with partialByte := x, cursor := BitVec.ofNat 3 (p.cursor.toNat + v.length) }

/-- The recursion of `w_u8` to a depth of `depth` (41 R123). -/
def wU8Rec : Nat → Bits → Packer → Run Packer Unit
  | 0, _, p => .done () p
  | depth + 1, v, p =>
    if p.cursor = 0#3 ∧ v.length = 8 then p.sinkPut (zext8 v)
    else
      let required := v.length - (8 - p.cursor.toNat)
      if required > 0 then
        (wU8Rec depth (v.take (v.length - required)) p).bind fun _ p' =>
          wU8Rec depth (v.drop (v.length - required)) p'
      else wPlace v p

/-- `w_u8(size, v)`, `1 <= size <= 8` (41 R123): the recursion is at most two deep. -/
def wU8 (v : Bits) (p : Packer) : Run Packer Unit := wU8Rec 2 v p

/-- `n` full chunks of `chunk` bits, most significant first (41 R124 to R126). -/
def wChunks (chunk : Nat) (write : Bits → Packer → Run Packer Unit) :
    Nat → Bits → Packer → Run Packer Unit
  | 0, _, p => .done () p
  | n + 1, v, p => (write (v.take chunk) p).bind fun _ p' => wChunks chunk write n (v.drop chunk) p'

/-- An optional leading remainder of `size % chunk` bits, then `size / chunk` full chunks (41 R124 to
R126). -/
def wSplit (chunk : Nat) (write : Bits → Packer → Run Packer Unit) (v : Bits) (p : Packer) :
    Run Packer Unit :=
  let q := v.length / chunk
  let r := v.length % chunk
  if r > 0 then (write (v.take r) p).bind fun _ p' => wChunks chunk write q (v.drop r) p'
  else wChunks chunk write q v p

/-- `w_u16(size, v)`, `1 <= size <= 16` (41 R124). -/
def wU16 (v : Bits) (p : Packer) : Run Packer Unit := wSplit 8 wU8 v p

/-- `w_u32(size, v)`, `1 <= size <= 31` (41 R125). -/
def wU32 (v : Bits) (p : Packer) : Run Packer Unit := wSplit 16 wU16 v p

/-- `w_u64(size, v)`, `1 <= size <= 63` (41 R126). -/
def wU64 (v : Bits) (p : Packer) : Run Packer Unit := wSplit 31 wU32 v p

/-- `w_uW` (41 R127). -/
def wUnsigned : Native → Bits → Packer → Run Packer Unit
  | .byte => wU8
  | .short => wU16
  | .int => wU32
  | .long => wU64

/-- `w_signed(W, size, v)`, `1 <= size <= W` (41 R127): the sign bit, then, if `size > 1`, the rest. -/
def wSigned (n : Native) (v : Bits) (p : Packer) : Run Packer Unit :=
  (wU8 (v.take 1) p).bind fun _ p' =>
    if v.length > 1 then wUnsigned n (v.drop 1) p' else .done () p'

/-- A numeric field (41 R130 to R133). -/
def wField (n : Native) (u : Signedness) (v : Bits) (p : Packer) : Run Packer Unit :=
  match u with
  | .unsigned => wUnsigned n v p
  | .signed => wSigned n v p

/-- The loop of WALIGN (41 R135), at most `fuel` turns: `while W.count % boundary != 0`. -/
def wPad : Nat → Nat → Nat → Packer → Run Packer Nat
  | 0, _, bits, p => .done bits p
  | fuel + 1, boundary, bits, p =>
    if p.count % boundary = 0 then .done bits p
    else (wU8 (List.replicate 8 false) p).bind fun _ p' => wPad fuel boundary (bits + 8) p'

/-- The pseudocode of WALIGN (41 R135): the number of padding bits. The loop turns at most
`boundary - 1` times. -/
def wAlign (boundary : Nat) (p : Packer) : Run Packer Nat :=
  if p.cursor.toNat > 0 then
    (wU8 (List.replicate (8 - p.cursor.toNat) false) p).bind fun _ p' =>
      wPad boundary boundary (8 - p.cursor.toNat) p'
  else wPad boundary boundary 0 p

/-- The elements of a byte sequence (43_variable_length_codec.md R204): `d[i][range-1:0]` each. -/
def wElements (range : Nat) : List Byte → Packer → Run Packer Unit
  | [], p => .done () p
  | b :: d, p => (wU8 (bitsOf b range) p).bind fun _ p' => wElements range d p'

/-- The pseudocode of WBYTES (43 R204): the count, then the elements. -/
def wSequence (scale range : Nat) (d : List Byte) (p : Packer) : Run Packer Unit :=
  (wU32 (bitsOf (BitVec.ofNat 32 d.length) scale) p).bind fun _ p' => wElements range d p'

/-- A write returns 0 (30_encoding.md R99). -/
def returnZero (x : Run Packer Unit) : Run Packer (BitVec 64) :=
  x.bind fun _ p => .done 0#64 p

end Sys2Proof.Machine
end

