-- ==== Sys2Proof/Machine/BitPacker.lean ====
section
/-! DEFINITION. The meanings of the bit_packer commands (41_bit_packer.md part 3), each in the order of
work of 30_encoding.md R103. -/

namespace Sys2Proof.Machine

/-- A numeric write: validation by 44_width_validation.md R233, then the field `value[size-1:0]`
(41 R130 to R133). -/
def writeNumeric {m : Nat} (n : Native) (u : Signedness) (size : Nat) (value : BitVec m) (s : State) :
    Host.Outcome State Fault Refusal :=
  packerRun 0 (legalSize n u size) (fun _ p => returnZero (wField n u (bitsOf value size) p)) s

/-- WBOOL (41 R129): one bit, 1 for true. -/
def execWbool (b : Bool) (s : State) : Host.Outcome State Fault Refusal :=
  packerRun 0 true (fun _ p => returnZero (wU8 [b] p)) s

/-- WBYTE (41 R130). -/
def execWbyte (u : Signedness) (size : Nat) (value : BitVec 8) (s : State) :
    Host.Outcome State Fault Refusal :=
  writeNumeric .byte u size value s

/-- WSHORT (41 R131). -/
def execWshort (u : Signedness) (size : Nat) (value : BitVec 16) (s : State) :
    Host.Outcome State Fault Refusal :=
  writeNumeric .short u size value s

/-- WINT (41 R132). -/
def execWint (u : Signedness) (size : Nat) (value : BitVec 32) (s : State) :
    Host.Outcome State Fault Refusal :=
  writeNumeric .int u size value s

/-- WLONG (41 R133). -/
def execWlong (u : Signedness) (size : Nat) (value : BitVec 64) (s : State) :
    Host.Outcome State Fault Refusal :=
  writeNumeric .long u size value s

/-- WCHAR (41 R134): an unsigned field of 1 to 16 bits. -/
def execWchar (size : Nat) (value : BitVec 16) (s : State) : Host.Outcome State Fault Refusal :=
  packerRun 0 (legalChar size) (fun _ p => returnZero (wU16 (bitsOf value size) p)) s

/-- WALIGN (41 R135): the result is the number of padding bits. -/
def execWalign (boundary : Int) (s : State) : Host.Outcome State Fault Refusal :=
  packerRun 0 (legalBoundary boundary)
    (fun _ p => (wAlign boundary.toNat p).bind fun bits p' => .done (paddingResult bits) p') s

end Sys2Proof.Machine
end

