-- ==== Sys2Proof/Machine/ReadProcs.lean ====
section
/-! DEFINITION. The internal procedures of `UNPACKER` (42_bit_unpacker.md part 1), the mirror of those of
`PACKER`. Each returns a bit string of exactly `size` bits (R160). -/

namespace Sys2Proof.Machine

/-- The slice `R.partial[7 - c : 8 - c - size]` (42 R161): `size` bits from index `c`, counted from the
most significant bit. -/
def partialSlice (x : BitVec 8) (c : Nat) : Nat → Bits
  | 0 => []
  | size + 1 => x.getMsbD c :: partialSlice x (c + 1) size

/-- The bits of `r_take` once a byte is at hand (42 R161). A cursor that reaches 8 becomes 0. -/
def rDeliver (size : Nat) (q : Unpacker) : Run Unpacker Bits :=
  .done (partialSlice q.partialByte q.cursor.toNat size)
    { q with cursor := BitVec.ofNat 3 (q.cursor.toNat + size) }

/-- `r_take(size)`, `1 <= size <= 8 - R.cursor` (42 R161): a byte is pulled only at `R.cursor = 0`. -/
def rTake (size : Nat) (q : Unpacker) : Run Unpacker Bits :=
  if q.cursor = 0#3 then q.srcGet.bind fun _ q' => rDeliver size q'
  else rDeliver size q

/-- The recursion of `r_u8` to a depth of `depth` (42 R161). -/
def rU8Rec : Nat → Nat → Unpacker → Run Unpacker Bits
  | 0, _, q => .done [] q
  | depth + 1, size, q =>
    if q.cursor = 0#3 ∧ size = 8 then q.srcGet.bind fun b q' => .done (bitsOf b 8) q'
    else
      let required := size - (8 - q.cursor.toNat)
      if required > 0 then
        (rU8Rec depth (size - required) q).bind fun hi q' =>
          (rU8Rec depth required q').bind fun lo q'' => .done (hi ++ lo) q''
      else rTake size q

/-- `r_u8(size)`, `1 <= size <= 8` (42 R161): the recursion is at most two deep. -/
def rU8 (size : Nat) (q : Unpacker) : Run Unpacker Bits := rU8Rec 2 size q

/-- `n` full chunks of `chunk` bits appended to `v` (42 R162 to R164). -/
def rChunks (chunk : Nat) (read : Nat → Unpacker → Run Unpacker Bits) :
    Nat → Bits → Unpacker → Run Unpacker Bits
  | 0, v, q => .done v q
  | n + 1, v, q => (read chunk q).bind fun c q' => rChunks chunk read n (v ++ c) q'

/-- An optional leading remainder of `size % chunk` bits, then `size / chunk` full chunks (42 R162 to
R164). -/
def rSplit (chunk : Nat) (read : Nat → Unpacker → Run Unpacker Bits) (size : Nat) (q : Unpacker) :
    Run Unpacker Bits :=
  let k := size / chunk
  let r := size % chunk
  if r > 0 then (read r q).bind fun v q' => rChunks chunk read k v q'
  else rChunks chunk read k [] q

/-- `r_u16(size)`, `1 <= size <= 16` (42 R162). -/
def rU16 (size : Nat) (q : Unpacker) : Run Unpacker Bits := rSplit 8 rU8 size q

/-- `r_u32(size)`, `1 <= size <= 31` (42 R163). -/
def rU32 (size : Nat) (q : Unpacker) : Run Unpacker Bits := rSplit 16 rU16 size q

/-- `r_u64(size)`, `1 <= size <= 63` (42 R164). -/
def rU64 (size : Nat) (q : Unpacker) : Run Unpacker Bits := rSplit 31 rU32 size q

/-- `r_uW` (42 R165). -/
def rUnsigned : Native → Nat → Unpacker → Run Unpacker Bits
  | .byte => rU8
  | .short => rU16
  | .int => rU32
  | .long => rU64

/-- `r_signed(W, size)`, `1 <= size <= W` (42 R165): `flag ++ magnitude`. -/
def rSigned (n : Native) (size : Nat) (q : Unpacker) : Run Unpacker Bits :=
  (rU8 1 q).bind fun f q' =>
    if size > 1 then (rUnsigned n (size - 1) q').bind fun m q'' => .done (f ++ m) q''
    else .done f q'

/-- A numeric field and its extension to 64 bits (42 R168 to R171, 30_encoding.md R99). -/
def rField (n : Native) (u : Signedness) (size : Nat) (q : Unpacker) : Run Unpacker (BitVec 64) :=
  match u with
  | .unsigned => (rUnsigned n size q).bind fun v q' => .done (zext64 v) q'
  | .signed => (rSigned n size q).bind fun v q' => .done (sext64 v) q'

/-- The loop of RALIGN (42 R173), at most `fuel` turns: `while R.count % boundary != 0`. The bits read
are discarded unchecked. -/
def rSkip : Nat → Nat → Nat → Unpacker → Run Unpacker Nat
  | 0, _, bits, q => .done bits q
  | fuel + 1, boundary, bits, q =>
    if q.count % boundary = 0 then .done bits q
    else (rU8 8 q).bind fun _ q' => rSkip fuel boundary (bits + 8) q'

/-- The pseudocode of RALIGN (42 R173): the number of discarded bits. -/
def rAlign (boundary : Nat) (q : Unpacker) : Run Unpacker Nat :=
  if q.cursor.toNat > 0 then
    (rU8 (8 - q.cursor.toNat) q).bind fun _ q' => rSkip boundary boundary (8 - q.cursor.toNat) q'
  else rSkip boundary boundary 0 q

/-- `n` elements of a byte sequence, each `zext_8` of its `range` bits (43_variable_length_codec.md
R205). -/
def rElements (range : Nat) : Nat → Unpacker → Run Unpacker (List Byte)
  | 0, q => .done [] q
  | n + 1, q =>
    (rU8 range q).bind fun v q' =>
      (rElements range n q').bind fun e q'' => .done (zext8 v :: e) q''

/-- The pseudocode of RBYTES (43 R205): the count, then the elements; `n` and the payload. -/
def rSequence (scale range : Nat) (q : Unpacker) : Run Unpacker (BitVec 64 × List Byte) :=
  (rU32 scale q).bind fun v q' =>
    (rElements range (uint v) q').bind fun e q'' => .done (BitVec.ofNat 64 (uint v), e) q''

/-- A result without response payload (30_encoding.md R97, R99). -/
def withoutPayload (x : Run Unpacker (BitVec 64)) : Run Unpacker (BitVec 64 × List Byte) :=
  x.bind fun v q => .done (v, []) q

end Sys2Proof.Machine
end

