-- ==== Sys2Proof/Machine/BitUnpacker.lean ====
section
/-! DEFINITION. The meanings of the bit_unpacker commands (42_bit_unpacker.md part 3), each in the order of
work of 30_encoding.md R103. -/

namespace Sys2Proof.Machine

/-- A numeric read: validation by 44_width_validation.md R233, then the field, extended to 64 bits
(42 R168 to R171). -/
def readNumeric (n : Native) (u : Signedness) (size : Nat) (s : State) :
    Host.Outcome State Fault Refusal :=
  unpackerRun (legalSize n u size) (fun q => withoutPayload (rField n u size q)) s

/-- RBOOL (42 R167): 1 = true, 0 = false. -/
def execRbool (s : State) : Host.Outcome State Fault Refusal :=
  unpackerRun true (fun q => withoutPayload ((rU8 1 q).bind fun v q' => .done (zext64 v) q')) s

/-- RBYTE (42 R168). -/
def execRbyte (u : Signedness) (size : Nat) (s : State) : Host.Outcome State Fault Refusal :=
  readNumeric .byte u size s

/-- RSHORT (42 R169). -/
def execRshort (u : Signedness) (size : Nat) (s : State) : Host.Outcome State Fault Refusal :=
  readNumeric .short u size s

/-- RINT (42 R170). -/
def execRint (u : Signedness) (size : Nat) (s : State) : Host.Outcome State Fault Refusal :=
  readNumeric .int u size s

/-- RLONG (42 R171). -/
def execRlong (u : Signedness) (size : Nat) (s : State) : Host.Outcome State Fault Refusal :=
  readNumeric .long u size s

/-- RCHAR (42 R172): an unsigned field of 1 to 16 bits. -/
def execRchar (size : Nat) (s : State) : Host.Outcome State Fault Refusal :=
  unpackerRun (legalChar size)
    (fun q => withoutPayload ((rU16 size q).bind fun v q' => .done (zext64 v) q')) s

/-- RALIGN (42 R173): the result is the number of discarded bits. -/
def execRalign (boundary : Int) (s : State) : Host.Outcome State Fault Refusal :=
  unpackerRun (legalBoundary boundary)
    (fun q => withoutPayload
      ((rAlign boundary.toNat q).bind fun bits q' => .done (paddingResult bits) q')) s

end Sys2Proof.Machine
end

