-- ==== Sys2Proof/Machine/Codec.lean ====
section
/-! DEFINITION. The meanings of the variable_length_codec commands (43_variable_length_codec.md). -/

namespace Sys2Proof.Machine

/-- A byte-sequence write of `len` payload bytes: validation by 43 R201 to R203, then count and elements
(43 R204). -/
def writeSequence (scale range len : Nat) (s : State) : Host.Outcome State Fault Refusal :=
  packerRun len (legalSequence scale range len)
    (fun d p => returnZero (wSequence scale range d p)) s

/-- A byte-sequence read: validation by 43 R201, R202, then count and elements (43 R205). -/
def readSequence (scale range : Nat) (s : State) : Host.Outcome State Fault Refusal :=
  unpackerRun (legalScale scale && legalRange range) (fun q => rSequence scale range q) s

/-- WBYTES (43 R204). -/
def execWbytes (scale range len : Nat) (s : State) : Host.Outcome State Fault Refusal :=
  writeSequence scale range len s

/-- WSTR (43 R207): WBYTES with (`STR_SCALE`, `STR_RANGE`). -/
def execWstr (len : Nat) (s : State) : Host.Outcome State Fault Refusal :=
  writeSequence s.w.params.strScale s.w.params.strRange len s

/-- WASCII (43 R209): WBYTES with (`STR_SCALE`, `ASCII_RANGE`). -/
def execWascii (len : Nat) (s : State) : Host.Outcome State Fault Refusal :=
  writeSequence s.w.params.strScale s.w.params.asciiRange len s

/-- RBYTES (43 R205). -/
def execRbytes (scale range : Nat) (s : State) : Host.Outcome State Fault Refusal :=
  readSequence scale range s

/-- RSTR (43 R208): RBYTES with (`STR_SCALE`, `STR_RANGE`). -/
def execRstr (s : State) : Host.Outcome State Fault Refusal :=
  readSequence s.r.params.strScale s.r.params.strRange s

/-- RASCII (43 R210): RBYTES with (`STR_SCALE`, `ASCII_RANGE`). -/
def execRascii (s : State) : Host.Outcome State Fault Refusal :=
  readSequence s.r.params.strScale s.r.params.asciiRange s

end Sys2Proof.Machine
end

