-- ==== Sys2Proof/Machine/Dispatch.lean ====
section
/-! DEFINITION. The dispatch: one arm per command (30_encoding.md R101), each a call of its meaning. -/

namespace Sys2Proof.Machine

def exec (i : Instr) (s : State) : Host.Outcome State Fault Refusal :=
  match i with
  | .wbool b => Sys2Proof.Machine.execWbool b s
  | .wbyte u size value => Sys2Proof.Machine.execWbyte u size value s
  | .wshort u size value => Sys2Proof.Machine.execWshort u size value s
  | .wint u size value => Sys2Proof.Machine.execWint u size value s
  | .wlong u size value => Sys2Proof.Machine.execWlong u size value s
  | .wchar size value => Sys2Proof.Machine.execWchar size value s
  | .walign boundary => Sys2Proof.Machine.execWalign boundary s
  | .wbytes scale range len => Sys2Proof.Machine.execWbytes scale range len s
  | .wstr len => Sys2Proof.Machine.execWstr len s
  | .wascii len => Sys2Proof.Machine.execWascii len s
  | .rbool => Sys2Proof.Machine.execRbool s
  | .rbyte u size => Sys2Proof.Machine.execRbyte u size s
  | .rshort u size => Sys2Proof.Machine.execRshort u size s
  | .rint u size => Sys2Proof.Machine.execRint u size s
  | .rlong u size => Sys2Proof.Machine.execRlong u size s
  | .rchar size => Sys2Proof.Machine.execRchar size s
  | .ralign boundary => Sys2Proof.Machine.execRalign boundary s
  | .rbytes scale range => Sys2Proof.Machine.execRbytes scale range s
  | .rstr => Sys2Proof.Machine.execRstr s
  | .rascii => Sys2Proof.Machine.execRascii s

end Sys2Proof.Machine
end

