-- ==== Sys2Proof/Machine/Fetch.lean ====
section
/-! DEFINITION. What a step does with the host's next event (70_reset_and_hazards.md), up to the command it
runs, if it is a command. -/

namespace Sys2Proof.Machine

/-- Either the step is over, or a command is to be run. -/
inductive Fetched where
  | over (o : Host.Outcome State Fault Refusal)
  | run (i : Instr) (s : State)

/-- `PACKER` accepts a command word (30_encoding.md R103 steps 1 and 2): the payload the host presents
stands on the payload port behind what is there already, and `cut` says when the host will assert `rst`. -/
def State.acceptPacker (payload : List Byte) (rst : Option Nat) (s : State) : State :=
  { s with w := { s.w with payload := s.w.payload ++ payload, cut := rst } }

/-- `UNPACKER` accepts a command word (30_encoding.md R103 steps 1 and 2). -/
def State.acceptUnpacker (rst : Option Nat) (s : State) : State :=
  { s with r := { s.r with cut := rst } }

/-- A command word on the command port of `PACKER`; the port is ready only when no response is pending
(70 R295). -/
def fetchPacker (word : CommandWord) (payload : List Byte) (rst : Option Nat) (s : State) : Fetched :=
  match s.w.response with
  | some _ => .over (.refused .engineBusy)
  | none =>
    match decodeFor .packer word s.w.params.boundaryW with
    | .ok i => .run i (s.acceptPacker payload rst)
    | .error _ => .over (illegalPacker word (s.acceptPacker payload rst))

/-- A command word on the command port of `UNPACKER` (as `fetchPacker`). -/
def fetchUnpacker (word : CommandWord) (rst : Option Nat) (s : State) : Fetched :=
  match s.r.response with
  | some _ => .over (.refused .engineBusy)
  | none =>
    match decodeFor .unpacker word s.r.params.boundaryW with
    | .ok i => .run i (s.acceptUnpacker rst)
    | .error _ => .over (illegalUnpacker (s.acceptUnpacker rst))

/-- The response of an engine is taken (70 R304). -/
def State.takeResponse (e : Engine) (s : State) : State :=
  match e with
  | .packer => { s with w := { s.w with response := none } }
  | .unpacker => { s with r := { s.r with response := none } }

/-- `rst` of one engine; the other does not change (70 R290, R291). -/
def State.resetEngine (e : Engine) (s : State) : State :=
  match e with
  | .packer => { s with w := s.w.reset }
  | .unpacker => { s with r := s.r.reset }

/-- The `bound` input of an engine is driven (10 R31). -/
def State.drive (e : Engine) (level : Bool) (s : State) : State :=
  match e with
  | .packer => { s with w := { s.w with bound := level } }
  | .unpacker => { s with r := { s.r with bound := level } }

/-- A source is attached, its first byte next (70 R293). -/
def State.attachSource (bytes : List Byte) (s : State) : State :=
  { s with r := { s.r with source := bytes } }

/-- One event of the host. -/
def handle (ev : HostEvent) (s : State) : Fetched :=
  match ev with
  | .packerCommand word payload rst => fetchPacker word payload rst s
  | .unpackerCommand word rst => fetchUnpacker word rst s
  | .takeResponse e => .over (.next (s.takeResponse e))
  | .reset e => .over (.next (s.resetEngine e))
  | .bound e level => .over (.next (s.drive e level))
  | .attachSource bytes => .over (.next (s.attachSource bytes))

/-- The host's next event; with none the engines are idle and keep their state (60_exceptions.md R269). -/
def fetch (s : State) : Fetched :=
  match s.host with
  | [] => .over (.next s)
  | ev :: rest => handle ev { s with host := rest }

/-- The event that presents a command word to the engine it is meant for, with a payload of zeros if the
word has a payload (30_encoding.md R91, R96). -/
def commandEvent (word : CommandWord) : HostEvent :=
  match wordEngine word with
  | .packer => .packerCommand word (List.replicate (wordPayloadLength word) 0#8) none
  | .unpacker => .unpackerCommand word none

/-- The state whose next event presents `word` to its engine, which is ready for it: no response pending
and no bytes left on the payload port. -/
def State.present (word : CommandWord) (s : State) : State :=
  match wordEngine word with
  | .packer =>
    { s with w := { s.w with response := none, payload := [] }, host := commandEvent word :: s.host }
  | .unpacker =>
    { s with r := { s.r with response := none }, host := commandEvent word :: s.host }

end Sys2Proof.Machine
end

