-- ==== Sys2Proof/Machine/Step.lean ====
section
/-! DEFINITION. One step: the host's next event, and if it is a legal command, the command's complete
execution (00_scope.md R6). -/

namespace Sys2Proof.Machine

def step (s : State) : Host.Outcome State Fault Refusal :=
  match fetch s with
  | .over o => o
  | .run i t => exec i t

/-- The state whose next step runs the command word `w` (log 13). A command is not fetched from memory
(20_memory.md R69): the host presents it, as the next event. -/
def State.withFetchWord (s : State) (nbits w : Nat) : State :=
  s.present (BitVec.ofNat 96 (w % 2 ^ nbits))

end Sys2Proof.Machine
end

