-- ==== Sys2Proof/Safety.lean ====
section
/-! DEFINITION. What the claims are stated in: the bits of a stream, the effect of a command on the stream
(41_bit_packer.md R136, 42_bit_unpacker.md R174), when an engine can complete a number of transfers, and
the invariant of the machine. -/

namespace Sys2Proof

/-! Commands by width, and which commands return a payload. -/

/-- The numeric write command of a width; its value operand is `value[W-1:0]` (30_encoding.md R95). -/
def Native.write (n : Native) (u : Signedness) (size : Nat) (value : BitVec 64) : Instr :=
  match n with
  | .byte => .wbyte u size (value.setWidth 8)
  | .short => .wshort u size (value.setWidth 16)
  | .int => .wint u size (value.setWidth 32)
  | .long => .wlong u size value

/-- The numeric read command of a width. -/
def Native.read (n : Native) (u : Signedness) (size : Nat) : Instr :=
  match n with
  | .byte => .rbyte u size
  | .short => .rshort u size
  | .int => .rint u size
  | .long => .rlong u size

/-- The response of `i` carries a payload when it is OK (30_encoding.md R97). -/
def Instr.hasResponsePayload : Instr → Bool
  | .rbytes _ _ => true
  | .rstr => true
  | .rascii => true
  | .wbool _ => false
  | .wbyte _ _ _ => false
  | .wshort _ _ _ => false
  | .wint _ _ _ => false
  | .wlong _ _ _ => false
  | .wchar _ _ => false
  | .walign _ => false
  | .wbytes _ _ _ => false
  | .wstr _ => false
  | .wascii _ => false
  | .rbool => false
  | .rbyte _ _ => false
  | .rshort _ _ => false
  | .rint _ _ => false
  | .rlong _ _ => false
  | .rchar _ => false
  | .ralign _ => false

end Sys2Proof

namespace Sys2Proof.Machine

/-! Bits of values and bytes of bits, said without the procedures that move them. -/

/-- The `size` bits `v[size-1], ..., v[0]` of a field (30_encoding.md R81). -/
def fieldBits {m : Nat} (v : BitVec m) (size : Nat) : Bits :=
  (List.range size).map fun j => v.getLsbD (size - 1 - j)

/-- The byte whose bit `7 - i` is the bit of index `i` (20_memory.md R57). -/
def byteOf (v : Bits) : Byte := BitVec.ofNat 8 (uint (v.take 8))

/-- The first `k` groups of eight bits, each as its byte (41 R136). -/
def bytesOf : Nat → Bits → List Byte
  | 0, _ => []
  | k + 1, v => byteOf v :: bytesOf k (v.drop 8)

/-- The bits of a list of bytes, each byte most significant bit first (20_memory.md R57). -/
def bitsOfBytes (d : List Byte) : Bits := d.flatMap fun b => fieldBits b 8

/-- A byte sequence on the wire: the count in `scale` bits, then `range` bits of each element (30 R85). -/
def sequenceBits (scale range : Nat) (d : List Byte) : Bits :=
  fieldBits (BitVec.ofNat 32 d.length) scale ++ d.flatMap fun b => fieldBits b range

/-- The least multiple of `boundary` that is not below `k` (41 R135, 42 R173). -/
def leastMultiple (boundary k : Nat) : Nat := (k + boundary - 1) / boundary * boundary

/-! The oracle. -/

/-- The next `k` answers are all `ok`. -/
def Oracle.okFor : Nat → Oracle → Bool
  | 0, _ => true
  | k + 1, o => o.next.1 == .ok && okFor k o.next.2

/-- The oracle after `k` answers. -/
def Oracle.advance : Nat → Oracle → Oracle
  | 0, o => o
  | k + 1, o => advance k o.next.2

/-! The writer and its stream. -/

/-- The pending bits `W.partial[0..W.cursor)`, first placed first (10_state.md R21, R36). -/
def Packer.pending (p : Packer) : Bits :=
  (List.range p.cursor.toNat).map fun i => p.partialByte.getMsbD i

/-- The stream bit position of the writer (10_state.md R34): the bits written since reset. -/
def Packer.position (p : Packer) : Int := 8 * p.count + p.cursor.toNat

/-- How many transfers the writing of `n` bits makes (20_memory.md R63). -/
def Packer.puts (n : Nat) (p : Packer) : Nat := (p.cursor.toNat + n) / 8

/-- The writer can make `k` transfers with no error, no reset and no counter overflow. -/
def Packer.ready (k : Nat) (p : Packer) : Bool :=
  p.bound && !p.faulted && p.cut.isNone && p.answers.okFor k &&
  decide (p.count + k < 2 ^ p.params.cntW)

/-- `p'` is the writer `p` after `bits` were written (41 R136): the bytes of the pending and the new bits
are appended to `SINK` and counted, the rest stays pending. Nothing else of the engine has changed, but for
its two ports towards the host. -/
def Packer.Written (bits : Bits) (p p' : Packer) : Prop :=
  let k := p.puts bits.length
  p'.cursor.toNat = (p.cursor.toNat + bits.length) % 8 ∧
  p'.count = p.count + k ∧
  p'.sink = p.sink ++ bytesOf k (p.pending ++ bits) ∧
  p'.pending = (p.pending ++ bits).drop (8 * k) ∧
  p'.answers = p.answers.advance k ∧
  p'.faulted = p.faulted ∧ p'.bound = p.bound ∧ p'.cut = p.cut ∧ p'.draws = p.draws ∧
  p'.params = p.params

/-- How many padding bits WALIGN writes (41 R135, closed form). -/
def Packer.padding (boundary : Nat) (p : Packer) : Nat :=
  8 * (leastMultiple boundary (p.count + if p.cursor.toNat > 0 then 1 else 0) - p.count) -
    p.cursor.toNat

/-- The bits a `PACKER` command writes, `d` its payload (30_encoding.md R81 to R86); none for a command of
`UNPACKER`. -/
def Packer.commandBits (i : Instr) (d : List Byte) (p : Packer) : Bits :=
  match i with
  | .wbool b => [b]
  | .wbyte _ size v => fieldBits v size
  | .wshort _ size v => fieldBits v size
  | .wint _ size v => fieldBits v size
  | .wlong _ size v => fieldBits v size
  | .wchar size v => fieldBits v size
  | .walign boundary => List.replicate (p.padding boundary.toNat) false
  | .wbytes scale range _ => sequenceBits scale range d
  | .wstr _ => sequenceBits p.params.strScale p.params.strRange d
  | .wascii _ => sequenceBits p.params.strScale p.params.asciiRange d
  | .rbool => []
  | .rbyte _ _ => []
  | .rshort _ _ => []
  | .rint _ _ => []
  | .rlong _ _ => []
  | .rchar _ => []
  | .ralign _ => []
  | .rbytes _ _ => []
  | .rstr => []
  | .rascii => []

/-- The bytes that `n` new bits complete, in order (41 R136). -/
def Packer.newBytes (bits : Bits) (p : Packer) : List Byte :=
  bytesOf (p.puts bits.length) (p.pending ++ bits)

/-- Bit by bit emission (41 R128): `emit(bit)` is `w_place(1, bit)`. -/
def emitAll : Bits → Packer → Run Packer Unit
  | [], p => .done () p
  | b :: v, p => (wPlace [b] p).bind fun _ p' => emitAll v p'

/-- Two runs of the writer that 41 R128 cannot tell apart: the same transfers with the same answers, and,
if none failed, the same cursor and valid part of `W.partial`. -/
def sameWrites (x y : Run Packer Unit) : Prop :=
  match x, y with
  | .done _ p, .done _ p' =>
    p.pending = p'.pending ∧
    ({ p with partialByte := 0#8 } : Packer) = { p' with partialByte := 0#8 }
  | .halted h p, .halted h' p' =>
    h = h' ∧
    ({ p with partialByte := 0#8, cursor := 0#3 } : Packer) =
      { p' with partialByte := 0#8, cursor := 0#3 }
  | .done _ _, .halted _ _ => False
  | .halted _ _, .done _ _ => False

/-! The reader and its stream. -/

/-- The pending bits `R.partial[7-R.cursor..0]`, next first; none at `R.cursor = 0` (10_state.md R26). -/
def Unpacker.pending (q : Unpacker) : Bits :=
  if q.cursor = 0#3 then [] else (fieldBits q.partialByte 8).drop q.cursor.toNat

/-- All bits the reader can still deliver: the pending ones, then those of `SRC`. -/
def Unpacker.stream (q : Unpacker) : Bits := q.pending ++ bitsOfBytes q.source

/-- The stream bit position of the reader: the bits consumed since reset. DEDUCED (log 30): 10_state.md R34
writes `8 * count + cursor` for either engine, but `R.count` includes the byte in `R.partial` (R28, 42 R174),
so at `R.cursor > 0` the eight bits of that byte come off, as R34's own words ask. -/
def Unpacker.position (q : Unpacker) : Int :=
  8 * q.count + q.cursor.toNat - if q.cursor.toNat > 0 then 8 else 0

/-- How many transfers the consuming of `n` bits makes (20_memory.md R63). -/
def Unpacker.gets (n : Nat) (q : Unpacker) : Nat :=
  (q.cursor.toNat + n + 7) / 8 - if q.cursor.toNat > 0 then 1 else 0

/-- The reader can make `k` transfers with no error, no reset and no counter overflow. -/
def Unpacker.ready (k : Nat) (q : Unpacker) : Bool :=
  q.bound && !q.faulted && q.cut.isNone && q.answers.okFor k && decide (k ≤ q.source.length) &&
  decide (q.count + k < 2 ^ q.params.cntW)

/-- `q'` is the reader `q` after `n` bits were consumed (42 R174): the bytes they lie in are gone from
`SRC` and counted, and the stream goes on behind them. Nothing else of the engine has changed, but for its
response port. DEDUCED (log 30): `count` follows R28 and R174, which 10_state.md R34's formula
`8 * count + cursor` contradicts for the reader; `Unpacker.position` is what advances by `n`. -/
def Unpacker.Consumed (n : Nat) (q q' : Unpacker) : Prop :=
  let k := q.gets n
  q'.cursor.toNat = (q.cursor.toNat + n) % 8 ∧
  q'.count = q.count + k ∧
  q'.source = q.source.drop k ∧
  q'.stream = q.stream.drop n ∧
  q'.partialByte = (q.source.take k).getLastD q.partialByte ∧
  q'.answers = q.answers.advance k ∧
  q'.faulted = q.faulted ∧ q'.bound = q.bound ∧ q'.cut = q.cut ∧ q'.draws = q.draws ∧
  q'.params = q.params

/-- How many bits RALIGN discards (42 R173, closed form). -/
def Unpacker.padding (boundary : Nat) (q : Unpacker) : Nat :=
  8 * (leastMultiple boundary q.count - q.count) +
    if q.cursor.toNat > 0 then 8 - q.cursor.toNat else 0

/-- The element count that a byte-sequence read with this `scale` finds next in the stream (43 R205). -/
def Unpacker.nextCount (scale : Nat) (q : Unpacker) : Nat := uint (q.stream.take scale)

/-- The elements that a byte-sequence read finds behind the count (43 R205, R212). -/
def Unpacker.nextElements (scale range : Nat) (q : Unpacker) : List Byte :=
  (List.range (q.nextCount scale)).map fun i =>
    BitVec.ofNat 8 (uint ((q.stream.drop (scale + i * range)).take range))

/-- How many bits a byte-sequence read consumes (43 R211). -/
def Unpacker.sequenceLength (scale range : Nat) (q : Unpacker) : Nat :=
  scale + q.nextCount scale * range

/-- How many bits an `UNPACKER` command consumes (42 R174); none for a command of `PACKER`. -/
def Unpacker.commandLength (i : Instr) (q : Unpacker) : Nat :=
  match i with
  | .rbool => 1
  | .rbyte _ size => size
  | .rshort _ size => size
  | .rint _ size => size
  | .rlong _ size => size
  | .rchar size => size
  | .ralign boundary => q.padding boundary.toNat
  | .rbytes scale range => q.sequenceLength scale range
  | .rstr => q.sequenceLength q.params.strScale q.params.strRange
  | .rascii => q.sequenceLength q.params.strScale q.params.asciiRange
  | .wbool _ => 0
  | .wbyte _ _ _ => 0
  | .wshort _ _ _ => 0
  | .wint _ _ _ => 0
  | .wlong _ _ _ => 0
  | .wchar _ _ => 0
  | .walign _ => 0
  | .wbytes _ _ _ => 0
  | .wstr _ => 0
  | .wascii _ => 0

/-- Bit by bit reading (42 R166): `next()` is `r_take(1)`. -/
def takeAll : Nat → Unpacker → Run Unpacker Bits
  | 0, q => .done [] q
  | n + 1, q => (rTake 1 q).bind fun b q' => (takeAll n q').bind fun v q'' => .done (b ++ v) q''

/-! The legality of a command's operands. -/

/-- The operands of a command are legal (44_width_validation.md R231 to R236, 43 R201 to R203); the string
commands are checked with the parameters of their engine (log 7). -/
def State.legal (i : Instr) (s : State) : Bool :=
  match i with
  | .wbool _ => true
  | .wbyte u size _ => legalSize .byte u size
  | .wshort u size _ => legalSize .short u size
  | .wint u size _ => legalSize .int u size
  | .wlong u size _ => legalSize .long u size
  | .wchar size _ => legalChar size
  | .walign boundary => legalBoundary boundary
  | .wbytes scale range len => legalSequence scale range len
  | .wstr len => legalSequence s.w.params.strScale s.w.params.strRange len
  | .wascii len => legalSequence s.w.params.strScale s.w.params.asciiRange len
  | .rbool => true
  | .rbyte u size => legalSize .byte u size
  | .rshort u size => legalSize .short u size
  | .rint u size => legalSize .int u size
  | .rlong u size => legalSize .long u size
  | .rchar size => legalChar size
  | .ralign boundary => legalBoundary boundary
  | .rbytes scale range => legalScale scale && legalRange range
  | .rstr => legalScale s.r.params.strScale && legalRange s.r.params.strRange
  | .rascii => legalScale s.r.params.strScale && legalRange s.r.params.asciiRange

/-- The outcome `o` of a command shows on its engine's response port whether its operands are legal: if
not, the command ends ERR_VALIDATION with result 0 and no payload; if they are, it never does. -/
def Validates (port : State → Option Response) (legal : Prop)
    (o : Host.Outcome State Fault Refusal) : Prop :=
  (¬ legal → ∃ t, o = .next t ∧ port t = some ⟨.errValidation, 0#64, []⟩) ∧
  (legal → ∀ t, o = .next t → port t ≠ some ⟨.errValidation, 0#64, []⟩)

/-! The effect of a completed command on the whole machine, and what two outcomes have in common. -/

/-- `t` is `s` after a `PACKER` command wrote `bits`, took `len` payload bytes and answered OK with
`result` (30_encoding.md R97): the other engine and the host's events are unchanged. -/
def State.Wrote (bits : Bits) (len : Nat) (result : BitVec 64) (s t : State) : Prop :=
  s.w.Written bits t.w ∧ t.w.payload = s.w.payload.drop len ∧
  t.w.response = some ⟨.ok, result, []⟩ ∧ t.r = s.r ∧ t.host = s.host

/-- `t` is `s` after an `UNPACKER` command consumed `n` bits and answered OK with `result` and `payload`:
the other engine and the host's events are unchanged. -/
def State.Read (n : Nat) (result : BitVec 64) (payload : List Byte) (s t : State) : Prop :=
  s.r.Consumed n t.r ∧ t.r.response = some ⟨.ok, result, payload⟩ ∧ t.w = s.w ∧ t.host = s.host

/-- Two states that differ at most in what holds no meaning: the elements of `W.partial` from `W.cursor` on
(10_state.md R21, R38), and after ERR_IO all of `W.partial` and `W.cursor` (60_exceptions.md R261). -/
def State.sameButSpare (t t' : State) : Prop :=
  (t.w.response ≠ some (Response.error .errIo) →
    t.w.cursor = t'.w.cursor ∧ t.w.pending = t'.w.pending) ∧
  ({ t.w with partialByte := 0#8, cursor := 0#3 } : Packer) =
    { t'.w with partialByte := 0#8, cursor := 0#3 } ∧
  t.r = t'.r ∧ t.host = t'.host

/-- The same outcome, up to what holds no meaning in the writer. -/
def sameOutcome (x y : Host.Outcome State Fault Refusal) : Prop :=
  match x, y with
  | .next t, .next t' => t.sameButSpare t'
  | .fault f, .fault f' => f = f'
  | .refused f, .refused f' => f = f'
  | .next _, .fault _ => False
  | .next _, .refused _ => False
  | .fault _, .next _ => False
  | .fault _, .refused _ => False
  | .refused _, .next _ => False
  | .refused _, .fault _ => False

/-- How many bits a `PACKER` command that ended OK with `result` has written (41 R136). -/
def Packer.writeLength (i : Instr) (result : BitVec 64) (p : Packer) : Nat :=
  match i with
  | .wbool _ => 1
  | .wbyte _ size _ => size
  | .wshort _ size _ => size
  | .wint _ size _ => size
  | .wlong _ size _ => size
  | .wchar size _ => size
  | .walign _ => result.toNat
  | .wbytes scale range len => scale + len * range
  | .wstr len => p.params.strScale + len * p.params.strRange
  | .wascii len => p.params.strScale + len * p.params.asciiRange
  | .rbool => 0
  | .rbyte _ _ => 0
  | .rshort _ _ => 0
  | .rint _ _ => 0
  | .rlong _ _ => 0
  | .rchar _ => 0
  | .ralign _ => 0
  | .rbytes _ _ => 0
  | .rstr => 0
  | .rascii => 0

/-- How many bits an `UNPACKER` command that ended OK with `result` has consumed (42 R174). -/
def Unpacker.readLength (i : Instr) (result : BitVec 64) (q : Unpacker) : Nat :=
  match i with
  | .rbool => 1
  | .rbyte _ size => size
  | .rshort _ size => size
  | .rint _ size => size
  | .rlong _ size => size
  | .rchar size => size
  | .ralign _ => result.toNat
  | .rbytes scale range => scale + result.toNat * range
  | .rstr => q.params.strScale + result.toNat * q.params.strRange
  | .rascii => q.params.strScale + result.toNat * q.params.asciiRange
  | .wbool _ => 0
  | .wbyte _ _ _ => 0
  | .wshort _ _ _ => 0
  | .wint _ _ _ => 0
  | .wlong _ _ _ => 0
  | .wchar _ _ => 0
  | .walign _ => 0
  | .wbytes _ _ _ => 0
  | .wstr _ => 0
  | .wascii _ => 0

/-- The reader `q` stands where the writer `p` stood, and `d` is what the source delivers (42 R175): at
cursor 0 it has pulled nothing of `d`; otherwise it holds the first byte, consumed up to its cursor. -/
def Unpacker.AtMirror (p : Packer) (d : List Byte) (q : Unpacker) : Prop :=
  q.cursor = p.cursor ∧
  if p.cursor = 0#3 then q.source = d else q.partialByte :: q.source = d

/-! The invariant. -/

/-- A response as 30_encoding.md R97 has it: an error returns 0 and no payload; a payload is as long as
`RESULT` says. -/
def Response.wellFormed (a : Response) : Bool :=
  match a.status with
  | .ok => a.payload.isEmpty || a.payload.length == a.result.toNat
  | .errValidation => a.result == 0#64 && a.payload.isEmpty
  | .errState => a.result == 0#64 && a.payload.isEmpty
  | .errIo => a.result == 0#64 && a.payload.isEmpty

/-- Between commands: the counter fits its register (10 R39) and counts bytes that `SINK` holds (10 R23),
no command is executing, and a pending response is one that the engine can give. -/
def Packer.inv (p : Packer) : Bool :=
  decide (p.count < 2 ^ p.params.cntW) && decide (p.count ≤ p.sink.length) && p.cut.isNone &&
  match p.response with
  | none => true
  | some a => a.wellFormed && a.payload.isEmpty

/-- Between commands: the counter fits its register (10 R39), pending bits lie in a byte that was pulled
(10 R26), no command is executing, and a pending response is one that the engine can give. -/
def Unpacker.inv (q : Unpacker) : Bool :=
  decide (q.count < 2 ^ q.params.cntW) && (q.faulted || q.cursor == 0#3 || decide (0 < q.count)) &&
  q.cut.isNone &&
  match q.response with
  | none => true
  | some a => a.wellFormed

/-- The invariant that every step keeps. -/
def State.inv (s : State) : Bool := s.w.inv && s.r.inv

end Sys2Proof.Machine
end

