-- ==== Sys2Proof/Certificates/Slice0/Obligations.lean ====
section
/-! DEFINITION. The statements for the provers, in the order of the spec's files. Each docstring names the
rules it formalises. A statement about every state holds in states no run reaches, too. `ready k` of an
engine is: bound, not faulted, no `rst` during the command, the next `k` transfers answered, and room for
`k` more in its counter. -/

open Sys2Proof Sys2Proof.Machine

/-! ## Encoding (30_encoding.md part B) -/

/-- R90 to R95, R101: no bit of an encoding is dropped. For every well-formed command, every operand at
every value its field admits, decoding the encoded word gives the command back, for every `BOUNDARY_W` that
`VALUE` has room for (R9, D13). -/
def Obligations.EncodeThenDecodeIsIdentity : Prop :=
  ∀ (i : Instr) (boundaryW : Nat), 1 ≤ boundaryW → boundaryW ≤ 64 → i.wellFormed boundaryW = true →
    decode (encode i) boundaryW = .ok i

/-- R101: a word stands for a command exactly when it selects that command's row by `w & mask = match`, and
is illegal exactly when it selects no row of the table. -/
def Obligations.DecodeFollowsTheOpcodeTable : Prop :=
  ∀ (w : CommandWord) (boundaryW : Nat),
    (∀ i, decode w boundaryW = .ok i →
      ∃ r ∈ opcodeTable, r.mnemonic = i.mnemonic ∧ w &&& r.mask = r.pattern) ∧
    (∀ e, decode w boundaryW = .error e → ∀ r ∈ opcodeTable, w &&& r.mask ≠ r.pattern)

/-- Sanity, on words of R106 and 95_test_vectors.md (T1, T27, T57, T63, T99, T138): one word of each
family. -/
def Obligations.WordsOfTheSpecDecode : Prop :=
  decode 0x100000000000000000000001#96 = .ok (.wbool true) ∧
  decode 0x11010700000000000000007F#96 = .ok (.wbyte .unsigned 7 0x7F#8) ∧
  decode 0x130020000000000080000000#96 = .ok (.wint .signed 32 0x80000000#32) ∧
  decode 0x16000000FFFFFFFFFFFFFFFF#96 = .ok (.walign (-1)) ∧
  decode 0x170004070000000000000002#96 = .ok (.wbytes 4 7 2) ∧
  decode 0x220010000000000000000000#96 = .ok (.rshort .signed 16) ∧
  decode 0x270004070000000000000000#96 = .ok (.rbytes 4 7)

/-- R97, R98: the response word holds the status code and the result; these are the codes, and no other
code is ever produced. -/
def Obligations.ResponseWordHoldsStatusAndResult : Prop :=
  (∀ a : Response, a.word.extractLsb' 64 8 = a.status.code ∧ a.word.extractLsb' 0 64 = a.result ∧
    (a.word.extractLsb' 64 8).toNat < 0x04) ∧
  Status.ok.code = 0x00#8 ∧ Status.errValidation.code = 0x01#8 ∧
  Status.errState.code = 0x02#8 ∧ Status.errIo.code = 0x03#8

/-! ## The step (30_encoding.md R103, 70_reset_and_hazards.md) -/

/-- R103, R295: a legal command word on the command port of an engine whose response port is free is
executed, with the payload the host presents behind what is left on the payload port, and with the `rst`
the host will assert meanwhile. That commands are host events in State is the model's form (log 13), as is
`cut` (log 9). -/
def Obligations.StepRunsTheDecodedCommand : Prop :=
  ∀ (s : State) (word : CommandWord) (rst : Option Nat) (rest : List HostEvent) (i : Instr),
    (∀ payload, s.host = .packerCommand word payload rst :: rest → s.w.response = none →
      decode word s.w.params.boundaryW = .ok i → i.engine = .packer →
      step s = exec i { s with
        host := rest, w := { s.w with payload := s.w.payload ++ payload, cut := rst } }) ∧
    (s.host = .unpackerCommand word rst :: rest → s.r.response = none →
      decode word s.r.params.boundaryW = .ok i → i.engine = .unpacker →
      step s = exec i { s with host := rest, r := { s.r with cut := rst } })

/-- R102, for both engines: a word that selects no row of its engine is answered ERR_VALIDATION with
result 0; nothing else changes, but that the payload of an `OPC` 0x17 to 0x19 is taken off the payload
port of `PACKER`. That `UNPACKER`, which has no payload port, takes none is the model's reading (log 11). -/
def Obligations.IllegalWordIsAnsweredValidationError : Prop :=
  ∀ (s : State) (word : CommandWord) (rest : List HostEvent),
    (∀ (payload : List Byte) (len : Nat),
      s.host = .packerCommand word payload none :: rest → s.w.response = none →
      (∀ r ∈ opcodeTableWrites, word &&& r.mask ≠ r.pattern) →
      len = (if word.extractLsb' 88 8 = 0x17#8 ∨ word.extractLsb' 88 8 = 0x18#8 ∨
        word.extractLsb' 88 8 = 0x19#8 then (word.extractLsb' 0 32).toNat else 0) →
      len ≤ (s.w.payload ++ payload).length →
      step s = .next { s with
        host := rest
        w := { s.w with
          payload := (s.w.payload ++ payload).drop len, cut := none,
          response := some ⟨.errValidation, 0#64, []⟩ } }) ∧
    (s.host = .unpackerCommand word none :: rest → s.r.response = none →
      (∀ r ∈ opcodeTableReads, word &&& r.mask ≠ r.pattern) →
      step s = .next { s with
        host := rest
        r := { s.r with cut := none, response := some ⟨.errValidation, 0#64, []⟩ } })

/-- 93 U8, R295: a second command before the response of the first was taken is refused (log 12). -/
def Obligations.BusyEngineRefusesACommand : Prop :=
  ∀ (s : State) (word : CommandWord) (rst : Option Nat) (rest : List HostEvent) (a : Response),
    (∀ payload, s.host = .packerCommand word payload rst :: rest → s.w.response = some a →
      step s = .refused .engineBusy) ∧
    (s.host = .unpackerCommand word rst :: rest → s.r.response = some a →
      step s = .refused .engineBusy)

/-- R31, R293, R304, R269: the events that are no command and no reset change the one thing they name;
without an event nothing changes (log 18). The events are the model's form of the host (log 13, log 22). -/
def Obligations.HostEventsChangeWhatTheyName : Prop :=
  ∀ (s : State) (rest : List HostEvent),
    (∀ level, s.host = .bound .packer level :: rest →
      step s = .next { s with host := rest, w := { s.w with bound := level } }) ∧
    (∀ level, s.host = .bound .unpacker level :: rest →
      step s = .next { s with host := rest, r := { s.r with bound := level } }) ∧
    (s.host = .takeResponse .packer :: rest →
      step s = .next { s with host := rest, w := { s.w with response := none } }) ∧
    (s.host = .takeResponse .unpacker :: rest →
      step s = .next { s with host := rest, r := { s.r with response := none } }) ∧
    (∀ bytes, s.host = .attachSource bytes :: rest →
      step s = .next { s with host := rest, r := { s.r with source := bytes } }) ∧
    (s.host = [] → step s = .next s)

/-! ## Reset and the invariant (10_state.md, 70_reset_and_hazards.md part 1) -/

/-- R37, R291: reset of an engine gives each of its registers the stated value, drops a pending response,
and touches neither the stream behind it nor the other engine. `partial` is 0 as in the hardware (log 3). -/
def Obligations.ResetGivesTheStatedValues : Prop :=
  ∀ (s : State) (rest : List HostEvent),
    (s.host = .reset .packer :: rest → ∃ t, step s = .next t ∧
      t.w.cursor = 0#3 ∧ t.w.count = 0 ∧ t.w.faulted = false ∧ t.w.partialByte = 0#8 ∧
      t.w.response = none ∧ t.w.sink = s.w.sink ∧ t.w.bound = s.w.bound ∧
      t.w.params = s.w.params ∧ t.r = s.r ∧ t.host = rest) ∧
    (s.host = .reset .unpacker :: rest → ∃ t, step s = .next t ∧
      t.r.cursor = 0#3 ∧ t.r.count = 0 ∧ t.r.faulted = false ∧ t.r.partialByte = 0#8 ∧
      t.r.response = none ∧ t.r.source = s.r.source ∧ t.r.bound = s.r.bound ∧
      t.r.params = s.r.params ∧ t.w = s.w ∧ t.host = rest)

/-- R37: the state right after reset holds the stated values, and meets the invariant. `partial` is 0 as in
the hardware, where R37 lets a model take any value (log 3). -/
def Obligations.InvariantHoldsAtReset : Prop :=
  State.reset.w.cursor = 0#3 ∧ State.reset.w.count = 0 ∧ State.reset.w.faulted = false ∧
  State.reset.w.partialByte = 0#8 ∧ State.reset.r.cursor = 0#3 ∧ State.reset.r.count = 0 ∧
  State.reset.r.faulted = false ∧ State.reset.r.partialByte = 0#8 ∧ State.reset.inv = true

/-- R23, R26, R39, R97, R295: every step, whatever the host and the environment do, keeps the invariant:
each counter fits its register, `W.count` counts bytes that `SINK` holds, pending bits of a reader that is
not faulted lie in a byte it has pulled, no command is left executing, and a pending response is one the
engine can give. -/
def Obligations.StepKeepsTheInvariant : Prop :=
  ∀ s t : State, s.inv = true → step s = .next t → t.inv = true

/-- R29: `faulted` is cleared only by reset, idle or during a command. -/
def Obligations.OnlyResetClearsFaulted : Prop :=
  ∀ s t : State, step s = .next t →
    (s.w.faulted = true → t.w.faulted = false →
      (∃ rest, s.host = .reset .packer :: rest) ∨
      ∃ word payload k rest, s.host = .packerCommand word payload (some k) :: rest) ∧
    (s.r.faulted = true → t.r.faulted = false →
      (∃ rest, s.host = .reset .unpacker :: rest) ∨
      ∃ word k rest, s.host = .unpackerCommand word (some k) :: rest)

/-- R292: `rst` asserted after `m` transfers of a command abandons it. The transfers it had completed stay
completed, no response is produced, and the engine is in the reset state. The moment is said by `cut` (log 9). -/
def Obligations.ResetDuringACommandAbandonsIt : Prop :=
  ∀ (i : Instr) (s : State) (m : Nat), s.legal i = true →
    (∀ bits k, i.engine = .packer → s.w.cut = some m → s.w.usable = true →
      i.payloadLength ≤ s.w.payload.length →
      bits = s.w.commandBits i (s.w.payload.take i.payloadLength) →
      k = min m (s.w.puts bits.length) → s.w.answers.okFor k = true →
      s.w.count + k < 2 ^ s.w.params.cntW →
      exec i s = .next { s with w := { s.w with
        partialByte := 0#8, cursor := 0#3, count := 0, faulted := false, response := none,
        cut := none, sink := s.w.sink ++ (s.w.newBytes bits).take k,
        answers := s.w.answers.advance k, payload := s.w.payload.drop i.payloadLength } }) ∧
    (∀ k, i.engine = .unpacker → s.r.cut = some m → s.r.usable = true →
      k = min m (s.r.gets (s.r.commandLength i)) → k ≤ s.r.source.length →
      s.r.answers.okFor k = true → s.r.count + k < 2 ^ s.r.params.cntW →
      exec i s = .next { s with r := { s.r with
        partialByte := 0#8, cursor := 0#3, count := 0, faulted := false, response := none,
        cut := none, source := s.r.source.drop k, answers := s.r.answers.advance k } })

/-! ## Transfers (20_memory.md) -/

/-- R52: a byte the sink accepts is appended to `SINK` and counted; a byte it refuses is neither, and the
procedure raises ERR_IO. -/
def Obligations.SinkPutAppendsAcceptedByte : Prop :=
  ∀ (b : Byte) (p : Packer) (o : Oracle), p.cut = none →
    (p.answers.next = (.ok, o) → p.count + 1 < 2 ^ p.params.cntW →
      p.sinkPut b = .done () { p with answers := o, sink := p.sink ++ [b], count := p.count + 1 }) ∧
    (p.answers.next = (.fail, o) → p.sinkPut b = .halted .io { p with answers := o })

/-- R55: a byte the source delivers leaves `SRC`, is counted and stands in `R.partial`; a failed request,
one on an empty `SRC` among them, changes neither and raises ERR_IO (log 19). -/
def Obligations.SrcGetConsumesDeliveredByte : Prop :=
  ∀ (b : Byte) (rest : List Byte) (q : Unpacker) (o : Oracle), q.cut = none →
    (q.answers.next = (.ok, o) → q.source = b :: rest → q.count + 1 < 2 ^ q.params.cntW →
      q.srcGet = .done b { q with
        answers := o, source := rest, count := q.count + 1, partialByte := b }) ∧
    (q.answers.next = (.ok, o) → q.source = [] → q.srcGet = .halted .io { q with answers := o }) ∧
    (q.answers.next = (.fail, o) → q.srcGet = .halted .io { q with answers := o })

/-- R66: the reader never looks ahead. A command that did not run into ERR_IO gives the same outcome
whatever bytes stand behind those it pulled, and leaves exactly these. -/
def Obligations.ReaderNeverLooksAhead : Prop :=
  ∀ (i : Instr) (s t : State), i.engine = .unpacker → s.r.cut = none → exec i s = .next t →
    t.r.response ≠ some ⟨.errIo, 0#64, []⟩ →
    ∃ k ≤ s.r.source.length, t.r.source = s.r.source.drop k ∧ t.r.count = s.r.count + k ∧
      ∀ other : List Byte,
        exec i { s with r := { s.r with source := s.r.source.take k ++ other } } =
          .next { t with r := { t.r with source := other } }

/-! ## The writer (41_bit_packer.md) -/

/-- R128: each write procedure makes the same transfers as the emission of its bits one by one, and, if
none fails, ends with the same cursor, valid part and count. -/
def Obligations.WriteProceduresEmitBitByBit : Prop :=
  ∀ (v : Bits) (p : Packer), 1 ≤ v.length →
    (v.length ≤ 8 → sameWrites (wU8 v p) (emitAll v p)) ∧
    (v.length ≤ 16 → sameWrites (wU16 v p) (emitAll v p)) ∧
    (v.length ≤ 31 → sameWrites (wU32 v p) (emitAll v p)) ∧
    (v.length ≤ 63 → sameWrites (wU64 v p) (emitAll v p)) ∧
    (∀ n : Native, v.length ≤ n.width → sameWrites (wSigned n v p) (emitAll v p))

/-- R136: after every write command that ends OK, cursor, count, `SINK` and the pending bits are those of
the position law, for the bits the command writes, whose number is the one R136 gives. A `BOUNDARY_W` of up to 62,
the default 32 among them, is where the padding count of every WALIGN fits `RESULT` (log 29). -/
def Obligations.WritesFollowThePositionLaw : Prop :=
  ∀ (i : Instr) (s t : State) (result : BitVec 64) (payload : List Byte),
    i.engine = .packer → s.w.cut = none → exec i s = .next t →
    t.w.response = some ⟨.ok, result, payload⟩ →
    s.w.Written (s.w.commandBits i (s.w.payload.take i.payloadLength)) t.w ∧
    (i.wellFormed s.w.params.boundaryW = true → s.w.params.boundaryW ≤ 62 →
      (s.w.commandBits i (s.w.payload.take i.payloadLength)).length = s.w.writeLength i result)

/-- R129, R83: WBOOL completes and writes its one bit, 1 for true. -/
def Obligations.WboolWritesItsBit : Prop :=
  ∀ (b : Bool) (s : State), s.w.ready (s.w.puts 1) = true →
    ∃ t, exec (.wbool b) s = .next t ∧ s.Wrote [b] 0 0#64 t

/-- R130 to R133, R81, R82: WBYTE, WSHORT, WINT and WLONG of a legal size complete, signed or unsigned, and
write the bits `value[size-1], ..., value[0]`. -/
def Obligations.NumericWritesWriteTheirField : Prop :=
  ∀ (n : Native) (u : Signedness) (size : Nat) (value : BitVec 64) (s : State),
    legalSize n u size = true → s.w.ready (s.w.puts size) = true →
    ∃ t, exec (n.write u size value) s = .next t ∧ s.Wrote (fieldBits value size) 0 0#64 t

/-- R134, R84: WCHAR of 1 to 16 bits completes and writes an unsigned field. -/
def Obligations.WcharWritesItsField : Prop :=
  ∀ (size : Nat) (value : BitVec 16) (s : State), 1 ≤ size → size ≤ 16 →
    s.w.ready (s.w.puts size) = true →
    ∃ t, exec (.wchar size value) s = .next t ∧ s.Wrote (fieldBits value size) 0 0#64 t

/-- R135, R86: WALIGN completes, writes zero bits only, returns their number, and ends at cursor 0 with
`W.count` the least multiple of the boundary that is not below the count of the completed bytes. Below a
boundary of `2^61` the number fits `RESULT`; else `paddingResult` may be the free value of log 29. -/
def Obligations.WalignPadsWithZeros : Prop :=
  ∀ (boundary : Int) (s : State), 1 ≤ boundary →
    s.w.ready (s.w.puts (s.w.padding boundary.toNat)) = true →
    ∃ t, exec (.walign boundary) s = .next t ∧
      s.Wrote (List.replicate (s.w.padding boundary.toNat) false) 0
        (paddingResult (s.w.padding boundary.toNat)) t ∧
      (boundary < 2 ^ 61 → (paddingResult (s.w.padding boundary.toNat)).toNat = s.w.padding boundary.toNat) ∧
      t.w.cursor = 0#3 ∧ t.w.count % boundary.toNat = 0 ∧
      s.w.count + (if s.w.cursor.toNat > 0 then 1 else 0) ≤ t.w.count ∧
      ∀ m, s.w.count + (if s.w.cursor.toNat > 0 then 1 else 0) ≤ m → m % boundary.toNat = 0 →
        t.w.count ≤ m

/-- R135, R173 (alignment idempotence): an engine that is aligned answers 0 and does not change, whatever
the environment would answer. -/
def Obligations.AlignIsIdempotent : Prop :=
  ∀ (boundary : Int) (s : State), 1 ≤ boundary →
    (s.w.usable = true → s.w.cut = none → s.w.cursor = 0#3 → s.w.count % boundary.toNat = 0 →
      exec (.walign boundary) s =
        .next { s with w := { s.w with response := some ⟨.ok, 0#64, []⟩ } }) ∧
    (s.r.usable = true → s.r.cut = none → s.r.cursor = 0#3 → s.r.count % boundary.toNat = 0 →
      exec (.ralign boundary) s =
        .next { s with r := { s.r with response := some ⟨.ok, 0#64, []⟩ } })

/-- R82: a signed and an unsigned write of the same size and value have the same outcome, for every size
legal for both. -/
def Obligations.SignedAndUnsignedWritesAgree : Prop :=
  ∀ (n : Native) (size : Nat) (value : BitVec 64) (s : State), 2 ≤ size → size < n.width →
    sameOutcome (exec (n.write .signed size value) s) (exec (n.write .unsigned size value) s)

/-- R137: a write command does not read the bits of its value above `size - 1`, does not read `SINK`, and
does not change the reader. Of `cursor` and `partial` after ERR_IO nothing is said (R261). -/
def Obligations.WritesReadNeitherSinkNorHighBits : Prop :=
  (∀ (n : Native) (u : Signedness) (size : Nat) (x y : BitVec 64) (s : State),
    (∀ j < size, x.getLsbD j = y.getLsbD j) →
    sameOutcome (exec (n.write u size x) s) (exec (n.write u size y) s)) ∧
  (∀ (size : Nat) (x y : BitVec 16) (s : State), (∀ j < size, x.getLsbD j = y.getLsbD j) →
    sameOutcome (exec (.wchar size x) s) (exec (.wchar size y) s)) ∧
  (∀ (i : Instr) (s t : State), i.engine = .packer → exec i s = .next t →
    t.r = s.r ∧ ∃ new, t.w.sink = s.w.sink ++ new ∧
      ∀ other : List Byte, ∃ t', exec i { s with w := { s.w with sink := other } } = .next t' ∧
        t'.w.sink = other ++ new ∧
        t'.sameButSpare { t with w := { t.w with sink := other ++ new } })

/-! ## The reader (42_bit_unpacker.md) -/

/-- R166: each read procedure is the reading of its bits one by one: the same requests, the same end, the
same vector, the first bit the most significant. -/
def Obligations.ReadProceduresTakeBitByBit : Prop :=
  ∀ (size : Nat) (q : Unpacker), 1 ≤ size →
    (size ≤ 8 → rU8 size q = takeAll size q) ∧
    (size ≤ 16 → rU16 size q = takeAll size q) ∧
    (size ≤ 31 → rU32 size q = takeAll size q) ∧
    (size ≤ 63 → rU64 size q = takeAll size q) ∧
    (∀ n : Native, size ≤ n.width → rSigned n size q = takeAll size q)

/-- R174: after every read command that ends OK, cursor, count, `SRC` and the pending bits are those of the
position law, for the number of bits the command consumes, which is the one R174 gives. A `BOUNDARY_W` of up
to 62, the default 32 among them, is where the count of every RALIGN fits `RESULT` (log 29). -/
def Obligations.ReadsFollowThePositionLaw : Prop :=
  ∀ (i : Instr) (s t : State) (result : BitVec 64) (payload : List Byte),
    i.engine = .unpacker → s.r.cut = none → exec i s = .next t →
    t.r.response = some ⟨.ok, result, payload⟩ →
    s.r.Consumed (s.r.commandLength i) t.r ∧
    (i.wellFormed s.r.params.boundaryW = true → s.r.params.boundaryW ≤ 62 →
      s.r.commandLength i = s.r.readLength i result)

/-- R167, R99: RBOOL completes and returns the next bit of the stream, 1 for true. -/
def Obligations.RboolReturnsTheNextBit : Prop :=
  ∀ s : State, s.r.ready (s.r.gets 1) = true →
    ∃ t b, exec .rbool s = .next t ∧ s.r.stream.take 1 = [b] ∧
      s.Read 1 (if b then 1#64 else 0#64) [] t

/-- R168 to R171, R165, R99: RBYTE, RSHORT, RINT and RLONG of a legal size complete and return the next
`size` bits of the stream: unsigned as `zext_64`, signed as `uint(magnitude) - flag * 2^(size-1)`. -/
def Obligations.NumericReadsReturnTheirField : Prop :=
  ∀ (n : Native) (u : Signedness) (size : Nat) (s : State) (v : Bits),
    legalSize n u size = true → s.r.ready (s.r.gets size) = true → v = s.r.stream.take size →
    ∃ t, exec (n.read u size) s = .next t ∧ v.length = size ∧
      s.Read size
        (match u with
          | .unsigned => BitVec.ofNat 64 (uint v)
          | .signed => BitVec.ofInt 64
              ((uint (v.drop 1) : Int) - if v.head? = some true then 2 ^ (size - 1) else 0))
        [] t

/-- R172, R99: RCHAR of 1 to 16 bits completes and returns the next `size` bits, unsigned. -/
def Obligations.RcharReturnsItsField : Prop :=
  ∀ (size : Nat) (s : State), 1 ≤ size → size ≤ 16 → s.r.ready (s.r.gets size) = true →
    ∃ t, exec (.rchar size) s = .next t ∧
      s.Read size (BitVec.ofNat 64 (uint (s.r.stream.take size))) [] t

/-- R173, R86: RALIGN completes whatever the discarded bits are, returns their number, and ends at cursor 0
with `R.count` the least multiple of the boundary that is not below it. Below a boundary of `2^61` the number
fits `RESULT`; else `paddingResult` may be the free value of log 29. -/
def Obligations.RalignDiscardsToTheBoundary : Prop :=
  ∀ (boundary : Int) (s : State), 1 ≤ boundary →
    s.r.ready (s.r.gets (s.r.padding boundary.toNat)) = true →
    ∃ t, exec (.ralign boundary) s = .next t ∧
      s.Read (s.r.padding boundary.toNat) (paddingResult (s.r.padding boundary.toNat)) [] t ∧
      (boundary < 2 ^ 61 → (paddingResult (s.r.padding boundary.toNat)).toNat = s.r.padding boundary.toNat) ∧
      t.r.cursor = 0#3 ∧ t.r.count % boundary.toNat = 0 ∧ s.r.count ≤ t.r.count ∧
      ∀ m, s.r.count ≤ m → m % boundary.toNat = 0 → t.r.count ≤ m

/-- R176: a read command changes neither the writer nor the host's events, and only removes bytes from the
front of `SRC`. -/
def Obligations.ReadsOnlyConsumeTheSource : Prop :=
  ∀ (i : Instr) (s t : State), i.engine = .unpacker → exec i s = .next t →
    t.w = s.w ∧ t.host = s.host ∧ t.r.source <:+ s.r.source ∧ t.r.bound = s.r.bound ∧
    t.r.params = s.r.params

/-- R34, as R28, R136 and R174 bear it out: a command that ends OK advances the stream bit position of its
engine by exactly the bits it writes or consumes. For the reader the position is the model's reading of R34
(log 30): in R34's formula `8 * count + cursor` the byte in `R.partial` counts whole, and its consumed bits
once more. -/
def Obligations.StreamPositionAdvancesByTheBits : Prop :=
  ∀ (i : Instr) (s t : State) (result : BitVec 64) (payload : List Byte), exec i s = .next t →
    (i.engine = .packer → s.w.cut = none → t.w.response = some ⟨.ok, result, payload⟩ →
      t.w.position =
        s.w.position + (s.w.commandBits i (s.w.payload.take i.payloadLength)).length) ∧
    (i.engine = .unpacker → s.r.cut = none → t.r.response = some ⟨.ok, result, payload⟩ →
      t.r.position = s.r.position + s.r.commandLength i)

/-! ## The codec (43_variable_length_codec.md) -/

/-- R204, R85, R212: WBYTES completes and writes the count in `scale` bits and the low `range` bits of each
payload byte, in order. -/
def Obligations.WbytesWritesCountAndElements : Prop :=
  ∀ (scale range len : Nat) (s : State) (bits : Bits),
    1 ≤ scale → scale ≤ 31 → 1 ≤ range → range ≤ 8 → len < 2 ^ scale →
    len ≤ s.w.payload.length → bits = sequenceBits scale range (s.w.payload.take len) →
    s.w.ready (s.w.puts bits.length) = true →
    ∃ t, exec (.wbytes scale range len) s = .next t ∧ s.Wrote bits len 0#64 t ∧
      bits.length = scale + len * range

/-- R207, R209: WSTR and WASCII complete as WBYTES with the configured pair, if that is a legal one. -/
def Obligations.WstrAndWasciiWriteTheConfiguredSequence : Prop :=
  ∀ (len : Nat) (s : State) (d : List Byte), s.w.params.wf = true →
    len < 2 ^ s.w.params.strScale → len ≤ s.w.payload.length → d = s.w.payload.take len →
    (∀ bits, bits = sequenceBits s.w.params.strScale s.w.params.strRange d →
      s.w.ready (s.w.puts bits.length) = true →
      ∃ t, exec (.wstr len) s = .next t ∧ s.Wrote bits len 0#64 t) ∧
    (∀ bits, bits = sequenceBits s.w.params.strScale s.w.params.asciiRange d →
      s.w.ready (s.w.puts bits.length) = true →
      ∃ t, exec (.wascii len) s = .next t ∧ s.Wrote bits len 0#64 t)

/-- R205, R99, R212: RBYTES completes and returns the count it finds in the next `scale` bits and, as
payload, that many elements, each the `zext_8` of the next `range` bits. -/
def Obligations.RbytesReturnsCountAndElements : Prop :=
  ∀ (scale range : Nat) (s : State), 1 ≤ scale → scale ≤ 31 → 1 ≤ range → range ≤ 8 →
    s.r.ready (s.r.gets (s.r.sequenceLength scale range)) = true →
    ∃ t, exec (.rbytes scale range) s = .next t ∧
      s.Read (s.r.sequenceLength scale range) (BitVec.ofNat 64 (s.r.nextCount scale))
        (s.r.nextElements scale range) t

/-- R208, R210: RSTR and RASCII complete as RBYTES with the configured pair, if that is a legal one. -/
def Obligations.RstrAndRasciiReadTheConfiguredSequence : Prop :=
  ∀ (s : State) (scale : Nat), s.r.params.wf = true → scale = s.r.params.strScale →
    (∀ range, range = s.r.params.strRange →
      s.r.ready (s.r.gets (s.r.sequenceLength scale range)) = true →
      ∃ t, exec .rstr s = .next t ∧
        s.Read (s.r.sequenceLength scale range) (BitVec.ofNat 64 (s.r.nextCount scale))
          (s.r.nextElements scale range) t) ∧
    (∀ range, range = s.r.params.asciiRange →
      s.r.ready (s.r.gets (s.r.sequenceLength scale range)) = true →
      ∃ t, exec .rascii s = .next t ∧
        s.Read (s.r.sequenceLength scale range) (BitVec.ofNat 64 (s.r.nextCount scale))
          (s.r.nextElements scale range) t)

/-! ## Validation (44_width_validation.md) -/

/-- R230, R257: a command whose operands are not legal is answered ERR_VALIDATION with result 0, bound or
not, faulted or not. Nothing else changes, but that its payload is taken. For WSTR, WASCII, RSTR and RASCII
on an engine whose configured pair is out of the bounds of R201 and R202, that the command is answered so is
the model's choice (log 7): R208 and R236 know no such engine and say RSTR and RASCII cannot fail. -/
def Obligations.ValidationErrorChangesNothing : Prop :=
  ∀ (i : Instr) (s : State), s.legal i = false →
    (i.engine = .packer → s.w.cut = none → i.payloadLength ≤ s.w.payload.length →
      exec i s = .next { s with w := { s.w with
        payload := s.w.payload.drop i.payloadLength,
        response := some ⟨.errValidation, 0#64, []⟩ } }) ∧
    (i.engine = .unpacker → s.r.cut = none →
      exec i s = .next { s with r := { s.r with response := some ⟨.errValidation, 0#64, []⟩ } })

/-- R233: the table of legal sizes, read off the status of the eight numeric commands: WBYTE, WSHORT, WINT,
WLONG, RBYTE, RSHORT, RINT and RLONG, signed and unsigned. -/
def Obligations.NumericSizesAreBoundedByTheTable : Prop :=
  ∀ (n : Native) (u : Signedness) (size lo hi : Nat) (value : BitVec 64) (s : State),
    (lo, hi) = (match n, u with
      | .byte, .unsigned => (1, 7) | .byte, .signed => (2, 8)
      | .short, .unsigned => (1, 15) | .short, .signed => (2, 16)
      | .int, .unsigned => (1, 31) | .int, .signed => (2, 32)
      | .long, .unsigned => (1, 63) | .long, .signed => (2, 64)) →
    (s.w.cut = none →
      Validates (fun t => t.w.response) (lo ≤ size ∧ size ≤ hi) (exec (n.write u size value) s)) ∧
    (s.r.cut = none →
      Validates (fun t => t.r.response) (lo ≤ size ∧ size ≤ hi) (exec (n.read u size) s))

/-- R234: a char field is legal for 1 to 16 bits, written and read. -/
def Obligations.CharSizesAreBounded : Prop :=
  ∀ (size : Nat) (value : BitVec 16) (s : State),
    (s.w.cut = none →
      Validates (fun t => t.w.response) (1 ≤ size ∧ size ≤ 16) (exec (.wchar size value) s)) ∧
    (s.r.cut = none →
      Validates (fun t => t.r.response) (1 ≤ size ∧ size ≤ 16) (exec (.rchar size) s))

/-- R235: an alignment boundary is legal from 1 on, written and read. -/
def Obligations.BoundariesArePositive : Prop :=
  ∀ (boundary : Int) (s : State),
    (s.w.cut = none →
      Validates (fun t => t.w.response) (1 ≤ boundary) (exec (.walign boundary) s)) ∧
    (s.r.cut = none →
      Validates (fun t => t.r.response) (1 ≤ boundary) (exec (.ralign boundary) s))

/-- R201, R202, R203: the legal scales and ranges, and the count must fit its field. -/
def Obligations.SequenceOperandsAreBounded : Prop :=
  ∀ (scale range len : Nat) (s : State),
    (s.w.cut = none → len ≤ s.w.payload.length →
      Validates (fun t => t.w.response)
        (1 ≤ scale ∧ scale ≤ 31 ∧ 1 ≤ range ∧ range ≤ 8 ∧ len < 2 ^ scale)
        (exec (.wbytes scale range len) s)) ∧
    (s.r.cut = none →
      Validates (fun t => t.r.response) (1 ≤ scale ∧ scale ≤ 31 ∧ 1 ≤ range ∧ range ≤ 8)
        (exec (.rbytes scale range) s))

/-! ## Errors (60_exceptions.md) -/

/-- R252, R258, R262: a legal command on an engine that is not bound or is faulted is answered ERR_STATE
with result 0, also one that would make no transfer. Nothing else changes, but that its payload is taken. -/
def Obligations.StateErrorChangesNothing : Prop :=
  ∀ (i : Instr) (s : State), s.legal i = true →
    (i.engine = .packer → (s.w.bound = false ∨ s.w.faulted = true) → s.w.cut = none →
      i.payloadLength ≤ s.w.payload.length →
      exec i s = .next { s with w := { s.w with
        payload := s.w.payload.drop i.payloadLength,
        response := some ⟨.errState, 0#64, []⟩ } }) ∧
    (i.engine = .unpacker → (s.r.bound = false ∨ s.r.faulted = true) → s.r.cut = none →
      exec i s = .next { s with r := { s.r with response := some ⟨.errState, 0#64, []⟩ } })

/-- R253, R260, R262, write side: when the sink accepts `k` bytes of a command and refuses the next, the
command ends ERR_IO with result 0; `SINK` holds those `k` bytes and not the refused one, `W.count` counts
them, and the engine is faulted. Of `cursor` and `partial` nothing is said (R261). -/
def Obligations.RefusedByteLatchesThePacker : Prop :=
  ∀ (i : Instr) (s : State) (bits : Bits) (k : Nat),
    i.engine = .packer → s.legal i = true → s.w.usable = true → s.w.cut = none →
    i.payloadLength ≤ s.w.payload.length →
    bits = s.w.commandBits i (s.w.payload.take i.payloadLength) →
    k < s.w.puts bits.length → s.w.answers.okFor k = true →
    (s.w.answers.advance k).next.1 = .fail → s.w.count + k < 2 ^ s.w.params.cntW →
    ∃ t, exec i s = .next t ∧ t.w.response = some ⟨.errIo, 0#64, []⟩ ∧ t.w.faulted = true ∧
      t.w.sink = s.w.sink ++ (s.w.newBytes bits).take k ∧ t.w.count = s.w.count + k ∧
      t.w.payload = s.w.payload.drop i.payloadLength ∧ t.w.bound = s.w.bound ∧
      t.w.params = s.w.params ∧ t.r = s.r ∧ t.host = s.host

/-- R253, R260, R262, read side: when the source delivers `k` bytes of a command and fails at the next, or
has no more, the command ends ERR_IO with result 0 and no payload; `SRC` has lost those `k` bytes, `R.count`
counts them, and the engine is faulted. Of `cursor` and `partial` nothing is said (R261). -/
def Obligations.FailedPullLatchesTheUnpacker : Prop :=
  ∀ (i : Instr) (s : State) (k : Nat),
    i.engine = .unpacker → s.legal i = true → s.r.usable = true → s.r.cut = none →
    k < s.r.gets (s.r.commandLength i) → k ≤ s.r.source.length → s.r.answers.okFor k = true →
    ((s.r.answers.advance k).next.1 = .fail ∨
      (s.r.answers.advance k).next.1 = .ok ∧ k = s.r.source.length) →
    s.r.count + k < 2 ^ s.r.params.cntW →
    ∃ t, exec i s = .next t ∧ t.r.response = some ⟨.errIo, 0#64, []⟩ ∧ t.r.faulted = true ∧
      t.r.source = s.r.source.drop k ∧ t.r.count = s.r.count + k ∧ t.r.bound = s.r.bound ∧
      t.r.params = s.r.params ∧ t.w = s.w ∧ t.host = s.host

/-- R97: every accepted command is answered by one response; one that is not OK has result 0 and no
payload; an OK one has a payload only for RBYTES, RSTR and RASCII, as long as the result says. -/
def Obligations.EveryCommandIsAnsweredOnce : Prop :=
  ∀ (i : Instr) (s t : State), exec i s = .next t →
    (i.engine = .packer → s.w.cut = none → ∃ a, t.w.response = some a ∧ a.payload = [] ∧
      (a.status ≠ .ok → a.result = 0#64)) ∧
    (i.engine = .unpacker → s.r.cut = none → ∃ a, t.r.response = some a ∧
      (a.status ≠ .ok → a.result = 0#64 ∧ a.payload = []) ∧
      (a.status = .ok → a.payload.length = if i.hasResponsePayload then a.result.toNat else 0))

/-- The frame of every `PACKER` command (R96, R200, R20): whatever its status, it takes its payload and no
more; it does not touch the reader, the host's events, the `bound` input or the parameters; `SINK` only
grows, and by as many bytes as `W.count`; `faulted` changes only with ERR_IO. -/
def Obligations.PackerCommandFrame : Prop :=
  ∀ (i : Instr) (s t : State), i.engine = .packer → s.w.cut = none → exec i s = .next t →
    t.r = s.r ∧ t.host = s.host ∧ t.w.bound = s.w.bound ∧ t.w.params = s.w.params ∧
    t.w.cut = none ∧ t.w.payload = s.w.payload.drop i.payloadLength ∧
    (∃ new, t.w.sink = s.w.sink ++ new ∧ t.w.count = s.w.count + new.length) ∧
    (t.w.response ≠ some ⟨.errIo, 0#64, []⟩ → t.w.faulted = s.w.faulted ∧ t.w.draws = s.w.draws)

/-- The frame of every `UNPACKER` command (R25, R176): whatever its status, it does not touch the writer,
the host's events, the `bound` input or the parameters; as many bytes leave `SRC` as `R.count` counts;
`faulted` changes only with ERR_IO. -/
def Obligations.UnpackerCommandFrame : Prop :=
  ∀ (i : Instr) (s t : State), i.engine = .unpacker → s.r.cut = none → exec i s = .next t →
    t.w = s.w ∧ t.host = s.host ∧ t.r.bound = s.r.bound ∧ t.r.params = s.r.params ∧
    t.r.cut = none ∧
    (∃ gone, s.r.source = gone ++ t.r.source ∧ t.r.count = s.r.count + gone.length) ∧
    (t.r.response ≠ some ⟨.errIo, 0#64, []⟩ → t.r.faulted = s.r.faulted ∧ t.r.draws = s.r.draws)

/-! ## Stops (93 U5, U6, U10) -/

/-- 93 U6, R306: an offer or request that the environment never answers hangs the command. That a request on
an EMPTY `SRC` hangs, too, when it is never answered (`k = s.r.source.length`) is the model's choice (log 19):
R55 and 93 U6 say the answer there is fail. That the hang is a fault of the whole machine is log 28. -/
def Obligations.SilentEnvironmentHangsTheCommand : Prop :=
  ∀ (i : Instr) (s : State) (k : Nat), s.legal i = true →
    (∀ bits, i.engine = .packer → s.w.usable = true → s.w.cut = none →
      i.payloadLength ≤ s.w.payload.length →
      bits = s.w.commandBits i (s.w.payload.take i.payloadLength) →
      k < s.w.puts bits.length → s.w.answers.okFor k = true →
      (s.w.answers.advance k).next.1 = .never → s.w.count + k < 2 ^ s.w.params.cntW →
      exec i s = .fault .sinkSilent) ∧
    (i.engine = .unpacker → s.r.usable = true → s.r.cut = none →
      k < s.r.gets (s.r.commandLength i) → k ≤ s.r.source.length → s.r.answers.okFor k = true →
      (s.r.answers.advance k).next.1 = .never → s.r.count + k < 2 ^ s.r.params.cntW →
      exec i s = .fault .sourceSilent)

/-- R39, 93 U5: a command whose next transfer would increment a counter at `2^CNT_W - 1` is refused (log 6). -/
def Obligations.FullCounterRefusesTheCommand : Prop :=
  ∀ (i : Instr) (s : State) (k : Nat), s.legal i = true →
    (∀ bits, i.engine = .packer → s.w.usable = true → s.w.cut = none →
      i.payloadLength ≤ s.w.payload.length →
      bits = s.w.commandBits i (s.w.payload.take i.payloadLength) →
      k < s.w.puts bits.length → s.w.answers.okFor (k + 1) = true →
      s.w.count + k = 2 ^ s.w.params.cntW - 1 →
      exec i s = .refused .counterOverflow) ∧
    (i.engine = .unpacker → s.r.usable = true → s.r.cut = none →
      k < s.r.gets (s.r.commandLength i) → k < s.r.source.length →
      s.r.answers.okFor (k + 1) = true → s.r.count + k = 2 ^ s.r.params.cntW - 1 →
      exec i s = .refused .counterOverflow)

/-- R301, 93 U10: with fewer payload bytes than `LEN` the engine waits for ever, a fault here (log 10),
of the whole machine (log 28). -/
def Obligations.MissingPayloadHangsTheCommand : Prop :=
  ∀ (i : Instr) (s : State), s.w.payload.length < i.payloadLength → s.w.cut = none →
    exec i s = .fault .payloadMissing

/-- R307: the most transfers a command makes, by its operands. -/
def Obligations.TransfersAreBoundedByOperands : Prop :=
  ∀ (s t : State) (u : Signedness) (size : Nat) (value : BitVec 64),
    (∀ b, exec (.wbool b) s = .next t → t.w.count ≤ s.w.count + 1) ∧
    (exec .rbool s = .next t → t.r.count ≤ s.r.count + 1) ∧
    (∀ n k, (n, k) ∈ [(Native.byte, 1), (.short, 2), (.int, 4), (.long, 8)] →
      (exec (n.write u size value) s = .next t → t.w.count ≤ s.w.count + k) ∧
      (exec (n.read u size) s = .next t → t.r.count ≤ s.r.count + k)) ∧
    (∀ c, exec (.wchar size c) s = .next t → t.w.count ≤ s.w.count + 2) ∧
    (exec (.rchar size) s = .next t → t.r.count ≤ s.r.count + 2) ∧
    (∀ boundary : Int, 1 ≤ boundary →
      (exec (.walign boundary) s = .next t → t.w.count ≤ s.w.count + boundary.toNat) ∧
      (exec (.ralign boundary) s = .next t → t.r.count ≤ s.r.count + boundary.toNat)) ∧
    (∀ scale range len, exec (.wbytes scale range len) s = .next t →
      t.w.count ≤ s.w.count + (7 + scale + len * range) / 8) ∧
    (∀ scale range n payload, exec (.rbytes scale range) s = .next t →
      t.r.response = some ⟨.ok, n, payload⟩ →
      t.r.count ≤ s.r.count + (7 + scale + n.toNat * range) / 8)

/-! ## Round trips (42_bit_unpacker.md R175) -/

/-- R175 for one numeric field at every start cursor: written, aligned with WALIGN 1, and read back from the
mirror position, it is returned as `value[size-1:0]`, zero-extended or sign-extended. -/
def Obligations.NumericFieldRoundTrips : Prop :=
  ∀ (n : Native) (u : Signedness) (size : Nat) (value : BitVec 64) (s t a : State) (q : Unpacker)
    (d more : List Byte),
    legalSize n u size = true → s.w.cut = none →
    exec (n.write u size value) s = .next t → t.w.response = some ⟨.ok, 0#64, []⟩ →
    (∃ pad, exec (.walign 1) t = .next a ∧ a.w.response = some ⟨.ok, pad, []⟩) →
    a.w.sink = s.w.sink ++ d → q.AtMirror s.w (d ++ more) → q.ready (q.gets size) = true →
    ∃ b result, exec (n.read u size) { a with r := q } = .next b ∧
      b.r.response = some ⟨.ok, result, []⟩ ∧
      result = match u with
        | .unsigned => (value.extractLsb' 0 size).zeroExtend 64
        | .signed => (value.extractLsb' 0 size).signExtend 64

/-- R175, R212 for one byte sequence at every start cursor: it is returned element by element as
`d[i][range-1:0]`. -/
def Obligations.ByteSequenceRoundTrips : Prop :=
  ∀ (scale range len : Nat) (s t a : State) (q : Unpacker) (d more : List Byte),
    s.w.cut = none → len ≤ s.w.payload.length →
    exec (.wbytes scale range len) s = .next t → t.w.response = some ⟨.ok, 0#64, []⟩ →
    (∃ pad, exec (.walign 1) t = .next a ∧ a.w.response = some ⟨.ok, pad, []⟩) →
    a.w.sink = s.w.sink ++ d → q.AtMirror s.w (d ++ more) →
    q.ready (q.gets (scale + len * range)) = true →
    ∃ b, exec (.rbytes scale range) { a with r := q } = .next b ∧
      b.r.response = some ⟨.ok, BitVec.ofNat 64 len,
        (s.w.payload.take len).map fun e => (e.extractLsb' 0 range).zeroExtend 8⟩
end

