-- ==== Sys2Proof/Laws/Bits.lean ====
section
/-! SUPPORT. Lengths and values of bit strings, and the bits of the partial byte. -/

namespace Sys2Proof.Machine

@[simp] theorem bitsOf_length {m : Nat} (v : BitVec m) (n : Nat) : (bitsOf v n).length = n := by
  induction n with
  | zero => rfl
  | succ n ih => simp [bitsOf, ih]

@[simp] theorem fieldBits_length {m : Nat} (v : BitVec m) (n : Nat) :
    (fieldBits v n).length = n := by
  simp [fieldBits]

/-- The recursive and the indexed listing of a field's bits are the same (30_encoding.md R81). -/
theorem bitsOf_eq_fieldBits {m : Nat} (v : BitVec m) (n : Nat) : bitsOf v n = fieldBits v n := by
  apply List.ext_getElem
  · simp
  · intro j h _
    simp only [bitsOf_length] at h
    simp only [fieldBits, List.getElem_map, List.getElem_range]
    induction n generalizing j with
    | zero => omega
    | succ n ih =>
      cases j with
      | zero => simp [bitsOf]
      | succ j =>
        simp only [bitsOf, List.getElem_cons_succ]
        rw [ih j (by simp; omega) (by simp; omega) (by omega)]
        congr 1
        omega

/-- An `n`-bit vector is below `2^n` (00_scope.md R10). -/
theorem uint_lt (v : Bits) : uint v < 2 ^ v.length := by
  induction v with
  | nil => simp [uint]
  | cons b v ih =>
    simp only [uint, List.length_cons, Nat.pow_succ]
    cases b <;> simp <;> omega

/-- `uint` of a concatenation (00_scope.md R10). -/
theorem uint_append (v w : Bits) : uint (v ++ w) = uint v * 2 ^ w.length + uint w := by
  induction v with
  | nil => simp [uint]
  | cons b v ih =>
    simp only [List.cons_append, uint, List.length_append, ih, Nat.pow_add]
    ring

@[simp] theorem partialSlice_length (x : BitVec 8) (c n : Nat) : (partialSlice x c n).length = n := by
  induction n generalizing c with
  | zero => rfl
  | succ n ih => simp [partialSlice, ih]

@[simp] theorem Packer.pending_length (p : Packer) : p.pending.length = p.cursor.toNat := by
  simp [Packer.pending]

/-- A bit placed at index `i` is read back there, and no other bit changes (41_bit_packer.md R122). -/
theorem setPartialBit_getMsbD (x : BitVec 8) {i : Nat} (b : Bool) (j : Nat) (hi : i < 8)
    (hj : j < 8) : (setPartialBit x i b).getMsbD j = if i = j then b else x.getMsbD j := by
  have key : ∀ i j : Fin 8, ((0x80#8 >>> i.val).getMsbD j.val) = decide (i = j) := by decide
  have hk := key ⟨i, hi⟩ ⟨j, hj⟩
  simp only [Fin.mk.injEq] at hk
  unfold setPartialBit
  split
  · rw [BitVec.getMsbD_or, hk]
    by_cases hij : i = j <;> simp_all
  · rw [BitVec.getMsbD_and, BitVec.getMsbD_not, hk]
    by_cases hij : i = j <;> simp_all

/-- The result of an alignment is the number of padding bits when that fits (30_encoding.md R99). -/
theorem paddingResult_toNat {bits : Nat} (h : bits < 2 ^ 64) : (paddingResult bits).toNat = bits := by
  rw [paddingResult, if_pos h, BitVec.toNat_ofNat, Nat.mod_eq_of_lt h]

/-- An aligned engine answers 0 (41_bit_packer.md R135). -/
@[simp] theorem paddingResult_zero : paddingResult 0 = 0#64 := rfl

end Sys2Proof.Machine
end

