-- ==== Sys2Proof/Laws/Run.lean ====
section
/-! SUPPORT. The laws of `Run.bind`, and what holds of a run wherever it ends. -/

namespace Sys2Proof.Machine

variable {σ α β γ : Type}

@[simp] theorem Run.bind_done (a : α) (s : σ) (f : α → σ → Run σ β) :
    (Run.done a s).bind f = f a s := rfl

@[simp] theorem Run.bind_halted (h : Halt) (s : σ) (f : α → σ → Run σ β) :
    (Run.halted h s : Run σ α).bind f = .halted h s := rfl

theorem Run.bind_assoc (x : Run σ α) (f : α → σ → Run σ β) (g : β → σ → Run σ γ) :
    (x.bind f).bind g = x.bind fun a s => (f a s).bind g := by
  cases x <;> rfl

/-- A sequence that returned: its first part returned, and the rest did from there. -/
theorem Run.bind_eq_done {x : Run σ α} {f : α → σ → Run σ β} {b : β} {t : σ}
    (h : x.bind f = .done b t) : ∃ a s, x = .done a s ∧ f a s = .done b t := by
  cases x with
  | done a s => exact ⟨a, s, rfl, h⟩
  | halted k s => cases h

/-- A sequence that halted: either its first part did, or the rest did behind it. -/
theorem Run.bind_eq_halted {x : Run σ α} {f : α → σ → Run σ β} {k : Halt} {t : σ}
    (h : x.bind f = .halted k t) :
    x = .halted k t ∨ ∃ a s, x = .done a s ∧ f a s = .halted k t := by
  cases x with
  | done a s => exact .inr ⟨a, s, rfl, h⟩
  | halted k' s => cases h; exact .inl rfl

/-- The state at the end of a run, returned or halted. -/
def Run.final : Run σ α → σ
  | .done _ s => s
  | .halted _ s => s

@[simp] theorem Run.final_done (a : α) (s : σ) : (Run.done a s).final = s := rfl

@[simp] theorem Run.final_halted (h : Halt) (s : σ) : (Run.halted h s : Run σ α).final = s := rfl

/-- A relation that both parts of a sequence keep is kept by the sequence. -/
theorem Run.final_bind {R : σ → σ → Prop} (trans : ∀ a b c, R a b → R b c → R a c) {x : Run σ α}
    {f : α → σ → Run σ β} {s : σ} (hx : R s x.final) (hf : ∀ a t, R t (f a t).final) :
    R s (x.bind f).final := by
  cases x with
  | done a t => exact trans _ _ _ hx (hf a t)
  | halted k t => exact hx

end Sys2Proof.Machine
end

