-- ==== Sys2Proof/Laws/State.lean ====
section
/-! SUPPORT. The fields of every named update, one lemma per field per update, so that no proof unfolds a
record update. -/

namespace Sys2Proof.Machine

section
variable (p : Packer) (q : Unpacker) (s : State) (b : Byte) (rest : List Byte) (o : Oracle)

@[simp] theorem Packer.accept_partialByte : (p.accept b o).partialByte = p.partialByte := rfl
@[simp] theorem Packer.accept_cursor : (p.accept b o).cursor = p.cursor := rfl
@[simp] theorem Packer.accept_count : (p.accept b o).count = p.count + 1 := rfl
@[simp] theorem Packer.accept_faulted : (p.accept b o).faulted = p.faulted := rfl
@[simp] theorem Packer.accept_bound : (p.accept b o).bound = p.bound := rfl
@[simp] theorem Packer.accept_sink : (p.accept b o).sink = p.sink ++ [b] := rfl
@[simp] theorem Packer.accept_answers : (p.accept b o).answers = o := rfl
@[simp] theorem Packer.accept_payload : (p.accept b o).payload = p.payload := rfl
@[simp] theorem Packer.accept_response : (p.accept b o).response = p.response := rfl
@[simp] theorem Packer.accept_cut : (p.accept b o).cut = countdown p.cut := rfl
@[simp] theorem Packer.accept_draws : (p.accept b o).draws = p.draws := rfl
@[simp] theorem Packer.accept_params : (p.accept b o).params = p.params := rfl

@[simp] theorem Packer.reset_partialByte : (p.reset).partialByte = 0#8 := rfl
@[simp] theorem Packer.reset_cursor : (p.reset).cursor = 0#3 := rfl
@[simp] theorem Packer.reset_count : (p.reset).count = 0 := rfl
@[simp] theorem Packer.reset_faulted : (p.reset).faulted = false := rfl
@[simp] theorem Packer.reset_bound : (p.reset).bound = p.bound := rfl
@[simp] theorem Packer.reset_sink : (p.reset).sink = p.sink := rfl
@[simp] theorem Packer.reset_answers : (p.reset).answers = p.answers := rfl
@[simp] theorem Packer.reset_payload : (p.reset).payload = p.payload := rfl
@[simp] theorem Packer.reset_response : (p.reset).response = none := rfl
@[simp] theorem Packer.reset_cut : (p.reset).cut = none := rfl
@[simp] theorem Packer.reset_draws : (p.reset).draws = p.draws := rfl
@[simp] theorem Packer.reset_params : (p.reset).params = p.params := rfl

@[simp] theorem Packer.latch_partialByte : (p.latch).partialByte = Config.drawPartial .packer p.draws := rfl
@[simp] theorem Packer.latch_cursor : (p.latch).cursor = Config.drawCursor .packer p.draws := rfl
@[simp] theorem Packer.latch_count : (p.latch).count = p.count := rfl
@[simp] theorem Packer.latch_faulted : (p.latch).faulted = true := rfl
@[simp] theorem Packer.latch_bound : (p.latch).bound = p.bound := rfl
@[simp] theorem Packer.latch_sink : (p.latch).sink = p.sink := rfl
@[simp] theorem Packer.latch_answers : (p.latch).answers = p.answers := rfl
@[simp] theorem Packer.latch_payload : (p.latch).payload = p.payload := rfl
@[simp] theorem Packer.latch_response : (p.latch).response = p.response := rfl
@[simp] theorem Packer.latch_cut : (p.latch).cut = p.cut := rfl
@[simp] theorem Packer.latch_draws : (p.latch).draws = p.draws + 1 := rfl
@[simp] theorem Packer.latch_params : (p.latch).params = p.params := rfl

@[simp] theorem Unpacker.deliver_partialByte : (q.deliver b rest o).partialByte = b := rfl
@[simp] theorem Unpacker.deliver_cursor : (q.deliver b rest o).cursor = q.cursor := rfl
@[simp] theorem Unpacker.deliver_count : (q.deliver b rest o).count = q.count + 1 := rfl
@[simp] theorem Unpacker.deliver_faulted : (q.deliver b rest o).faulted = q.faulted := rfl
@[simp] theorem Unpacker.deliver_bound : (q.deliver b rest o).bound = q.bound := rfl
@[simp] theorem Unpacker.deliver_source : (q.deliver b rest o).source = rest := rfl
@[simp] theorem Unpacker.deliver_answers : (q.deliver b rest o).answers = o := rfl
@[simp] theorem Unpacker.deliver_response : (q.deliver b rest o).response = q.response := rfl
@[simp] theorem Unpacker.deliver_cut : (q.deliver b rest o).cut = countdown q.cut := rfl
@[simp] theorem Unpacker.deliver_draws : (q.deliver b rest o).draws = q.draws := rfl
@[simp] theorem Unpacker.deliver_params : (q.deliver b rest o).params = q.params := rfl

@[simp] theorem Unpacker.reset_partialByte : (q.reset).partialByte = 0#8 := rfl
@[simp] theorem Unpacker.reset_cursor : (q.reset).cursor = 0#3 := rfl
@[simp] theorem Unpacker.reset_count : (q.reset).count = 0 := rfl
@[simp] theorem Unpacker.reset_faulted : (q.reset).faulted = false := rfl
@[simp] theorem Unpacker.reset_bound : (q.reset).bound = q.bound := rfl
@[simp] theorem Unpacker.reset_source : (q.reset).source = q.source := rfl
@[simp] theorem Unpacker.reset_answers : (q.reset).answers = q.answers := rfl
@[simp] theorem Unpacker.reset_response : (q.reset).response = none := rfl
@[simp] theorem Unpacker.reset_cut : (q.reset).cut = none := rfl
@[simp] theorem Unpacker.reset_draws : (q.reset).draws = q.draws := rfl
@[simp] theorem Unpacker.reset_params : (q.reset).params = q.params := rfl

@[simp] theorem Unpacker.latch_partialByte : (q.latch).partialByte = Config.drawPartial .unpacker q.draws := rfl
@[simp] theorem Unpacker.latch_cursor : (q.latch).cursor = Config.drawCursor .unpacker q.draws := rfl
@[simp] theorem Unpacker.latch_count : (q.latch).count = q.count := rfl
@[simp] theorem Unpacker.latch_faulted : (q.latch).faulted = true := rfl
@[simp] theorem Unpacker.latch_bound : (q.latch).bound = q.bound := rfl
@[simp] theorem Unpacker.latch_source : (q.latch).source = q.source := rfl
@[simp] theorem Unpacker.latch_answers : (q.latch).answers = q.answers := rfl
@[simp] theorem Unpacker.latch_response : (q.latch).response = q.response := rfl
@[simp] theorem Unpacker.latch_cut : (q.latch).cut = q.cut := rfl
@[simp] theorem Unpacker.latch_draws : (q.latch).draws = q.draws + 1 := rfl
@[simp] theorem Unpacker.latch_params : (q.latch).params = q.params := rfl

variable (payload : List Byte) (rst : Option Nat) (level : Bool)

@[simp] theorem State.acceptPacker_w : (s.acceptPacker payload rst).w = { s.w with payload := s.w.payload ++ payload, cut := rst } := rfl
@[simp] theorem State.acceptPacker_r : (s.acceptPacker payload rst).r = s.r := rfl
@[simp] theorem State.acceptPacker_host : (s.acceptPacker payload rst).host = s.host := rfl

@[simp] theorem State.acceptUnpacker_w : (s.acceptUnpacker rst).w = s.w := rfl
@[simp] theorem State.acceptUnpacker_r : (s.acceptUnpacker rst).r = { s.r with cut := rst } := rfl
@[simp] theorem State.acceptUnpacker_host : (s.acceptUnpacker rst).host = s.host := rfl

@[simp] theorem State.resetEngine_packer_w : (s.resetEngine .packer).w = s.w.reset := rfl
@[simp] theorem State.resetEngine_packer_r : (s.resetEngine .packer).r = s.r := rfl
@[simp] theorem State.resetEngine_packer_host : (s.resetEngine .packer).host = s.host := rfl

@[simp] theorem State.takeResponse_packer_w : (s.takeResponse .packer).w = { s.w with response := none } := rfl
@[simp] theorem State.takeResponse_packer_r : (s.takeResponse .packer).r = s.r := rfl
@[simp] theorem State.takeResponse_packer_host : (s.takeResponse .packer).host = s.host := rfl

@[simp] theorem State.drive_packer_w : (s.drive .packer level).w = { s.w with bound := level } := rfl
@[simp] theorem State.drive_packer_r : (s.drive .packer level).r = s.r := rfl
@[simp] theorem State.drive_packer_host : (s.drive .packer level).host = s.host := rfl

@[simp] theorem State.resetEngine_unpacker_w : (s.resetEngine .unpacker).w = s.w := rfl
@[simp] theorem State.resetEngine_unpacker_r : (s.resetEngine .unpacker).r = s.r.reset := rfl
@[simp] theorem State.resetEngine_unpacker_host : (s.resetEngine .unpacker).host = s.host := rfl

@[simp] theorem State.takeResponse_unpacker_w : (s.takeResponse .unpacker).w = s.w := rfl
@[simp] theorem State.takeResponse_unpacker_r : (s.takeResponse .unpacker).r = { s.r with response := none } := rfl
@[simp] theorem State.takeResponse_unpacker_host : (s.takeResponse .unpacker).host = s.host := rfl

@[simp] theorem State.drive_unpacker_w : (s.drive .unpacker level).w = s.w := rfl
@[simp] theorem State.drive_unpacker_r : (s.drive .unpacker level).r = { s.r with bound := level } := rfl
@[simp] theorem State.drive_unpacker_host : (s.drive .unpacker level).host = s.host := rfl

@[simp] theorem State.attachSource_w : (s.attachSource payload).w = s.w := rfl
@[simp] theorem State.attachSource_r : (s.attachSource payload).r = { s.r with source := payload } := rfl
@[simp] theorem State.attachSource_host : (s.attachSource payload).host = s.host := rfl

@[simp] theorem Packer.respond_of_cut_none {a : Response} (h : p.cut = none) :
    p.respond a = { p with response := some a } := by simp [Packer.respond, h]

@[simp] theorem Packer.respond_of_cut_some {a : Response} {k : Nat} (h : p.cut = some k) :
    p.respond a = p.reset := by simp [Packer.respond, h]

@[simp] theorem Unpacker.respond_of_cut_none {a : Response} (h : q.cut = none) :
    q.respond a = { q with response := some a } := by simp [Unpacker.respond, h]

@[simp] theorem Unpacker.respond_of_cut_some {a : Response} {k : Nat} (h : q.cut = some k) :
    q.respond a = q.reset := by simp [Unpacker.respond, h]

@[simp] theorem countdown_none : countdown none = none := rfl

@[simp] theorem countdown_some (k : Nat) : countdown (some k) = some (k - 1) := rfl

end

end Sys2Proof.Machine
end

