-- ==== Sys2Proof/Laws/Ops.lean ====
section
/-! SUPPORT. What each shared operation can do, said once: the transfers, the payload, and the order of work
of a command. -/

namespace Sys2Proof.Machine

/-! ## Transfers -/

/-- Everything `SinkPut(b)` can do (20_memory.md R52, 70 R292, R306, 10_state.md R39). -/
theorem Packer.sinkPut_cases (b : Byte) (p : Packer) :
    p.cut = some 0 ∧ p.sinkPut b = .halted .rst p ∨
    p.cut ≠ some 0 ∧ ∃ o,
      (p.answers.next = (.never, o) ∧ p.sinkPut b = .halted .silent p ∨
      p.answers.next = (.fail, o) ∧ p.sinkPut b = .halted .io { p with answers := o } ∨
      p.answers.next = (.ok, o) ∧ p.count + 1 < 2 ^ p.params.cntW ∧
        p.sinkPut b = .done () (p.accept b o) ∨
      p.answers.next = (.ok, o) ∧ ¬ p.count + 1 < 2 ^ p.params.cntW ∧
        p.sinkPut b = .halted .overflow p) := by
  unfold Packer.sinkPut
  by_cases hc : p.cut = some 0
  · simp [hc]
  · rcases hn : p.answers.next with ⟨a, o⟩
    refine .inr ⟨hc, o, ?_⟩
    cases a <;> by_cases hr : p.count + 1 < 2 ^ p.params.cntW <;> simp [hc, hr]

/-- Everything `SrcGet()` can do (20_memory.md R55, 70 R292, R306, 10_state.md R39). -/
theorem Unpacker.srcGet_cases (q : Unpacker) :
    q.cut = some 0 ∧ q.srcGet = .halted .rst q ∨
    q.cut ≠ some 0 ∧ ∃ o,
      (q.answers.next = (.never, o) ∧ q.srcGet = .halted .silent q ∨
      (q.answers.next = (.fail, o) ∨ q.answers.next = (.ok, o) ∧ q.source = []) ∧
        q.srcGet = .halted .io { q with answers := o } ∨
      ∃ b rest, q.answers.next = (.ok, o) ∧ q.source = b :: rest ∧
        (q.count + 1 < 2 ^ q.params.cntW ∧ q.srcGet = .done b (q.deliver b rest o) ∨
        ¬ q.count + 1 < 2 ^ q.params.cntW ∧ q.srcGet = .halted .overflow q)) := by
  unfold Unpacker.srcGet
  by_cases hc : q.cut = some 0
  · simp [hc]
  · rcases hn : q.answers.next with ⟨a, o⟩
    refine .inr ⟨hc, o, ?_⟩
    cases a <;> cases hs : q.source <;> by_cases hr : q.count + 1 < 2 ^ q.params.cntW <;>
      simp [hc, hr]

/-! ## The payload -/

theorem Packer.takePayload_enough {len : Nat} {p : Packer} (h : len ≤ p.payload.length) :
    p.takePayload len =
      some (p.payload.take len, { p with payload := p.payload.drop len }) := by
  simp [Packer.takePayload, h]

theorem Packer.takePayload_missing {len : Nat} {p : Packer} (h : p.payload.length < len) :
    p.takePayload len = none := by
  simp [Packer.takePayload, Nat.not_le.mpr h]

/-! ## The order of work (30_encoding.md R103) -/

section
variable {len : Nat} {legal : Bool} {body : List Byte → Packer → Run Packer (BitVec 64)}
  {rbody : Unpacker → Run Unpacker (BitVec 64 × List Byte)} {s t : State}

theorem packerRun_enough (h : len ≤ s.w.payload.length) :
    packerRun len legal body s =
      packerWork legal (body (s.w.payload.take len))
        { s.w with payload := s.w.payload.drop len } s := by
  simp [packerRun, Packer.takePayload_enough h]

theorem packerRun_missing (h : s.w.payload.length < len) (hc : s.w.cut = none) :
    packerRun len legal body s = .fault .payloadMissing := by
  simp [packerRun, Packer.takePayload_missing h, hc]

theorem packerRun_missing_cut {k : Nat} (h : s.w.payload.length < len) (hc : s.w.cut = some k) :
    packerRun len legal body s =
      .next { s with w := ({ s.w with payload := [] } : Packer).reset } := by
  simp [packerRun, Packer.takePayload_missing h, hc]

theorem packerWork_illegal {b : Packer → Run Packer (BitVec 64)} {p : Packer} :
    packerWork false b p s = .next { s with w := p.raise .errValidation } := by
  simp [packerWork]

theorem packerWork_unusable {b : Packer → Run Packer (BitVec 64)} {p : Packer}
    (h : p.usable = false) :
    packerWork true b p s = .next { s with w := p.raise .errState } := by
  simp [packerWork, h]

theorem packerWork_usable {b : Packer → Run Packer (BitVec 64)} {p : Packer}
    (h : p.usable = true) : packerWork true b p s = finishPacker (b p) s := by
  simp [packerWork, h]

theorem unpackerRun_illegal :
    unpackerRun false rbody s = .next { s with r := s.r.raise .errValidation } := by
  simp [unpackerRun]

theorem unpackerRun_unusable (h : s.r.usable = false) :
    unpackerRun true rbody s = .next { s with r := s.r.raise .errState } := by
  simp [unpackerRun, h]

theorem unpackerRun_usable (h : s.r.usable = true) :
    unpackerRun true rbody s = finishUnpacker (rbody s.r) s := by
  simp [unpackerRun, h]

/-- A next state after steps 5 and 6 comes from a return, an ERR_IO or a reset. -/
theorem finishPacker_next {x : Run Packer (BitVec 64)} (h : finishPacker x s = .next t) :
    (∃ v p, x = .done v p ∧ t = { s with w := p.respond ⟨.ok, v, []⟩ }) ∨
    (∃ p, x = .halted .io p ∧ t = { s with w := p.raise .errIo }) ∨
    ∃ p, x = .halted .rst p ∧ t = { s with w := p.reset } := by
  unfold finishPacker at h
  split at h <;> cases h
  · exact .inl ⟨_, _, rfl, rfl⟩
  · exact .inr (.inl ⟨_, rfl, rfl⟩)
  · exact .inr (.inr ⟨_, rfl, rfl⟩)

/-- A next state after steps 5 and 6 comes from a return, an ERR_IO or a reset. -/
theorem finishUnpacker_next {x : Run Unpacker (BitVec 64 × List Byte)}
    (h : finishUnpacker x s = .next t) :
    (∃ v q, x = .done v q ∧ t = { s with r := q.respond ⟨.ok, v.1, v.2⟩ }) ∨
    (∃ q, x = .halted .io q ∧ t = { s with r := q.raise .errIo }) ∨
    ∃ q, x = .halted .rst q ∧ t = { s with r := q.reset } := by
  unfold finishUnpacker at h
  split at h <;> cases h
  · exact .inl ⟨_, _, rfl, rfl⟩
  · exact .inr (.inl ⟨_, rfl, rfl⟩)
  · exact .inr (.inr ⟨_, rfl, rfl⟩)

/-- Everything a `PACKER` command can do that has a next state. -/
theorem packerRun_next (h : packerRun len legal body s = .next t) :
    (s.w.payload.length < len ∧ s.w.cut.isSome = true ∧
      t = { s with w := ({ s.w with payload := [] } : Packer).reset }) ∨
    len ≤ s.w.payload.length ∧ ∃ p, p = { s.w with payload := s.w.payload.drop len } ∧
      (legal = false ∧ t = { s with w := p.raise .errValidation } ∨
      legal = true ∧ p.usable = false ∧ t = { s with w := p.raise .errState } ∨
      legal = true ∧ p.usable = true ∧
        finishPacker (body (s.w.payload.take len) p) s = .next t) := by
  rcases Nat.lt_or_ge s.w.payload.length len with hl | hl
  · cases hc : s.w.cut with
    | none => rw [packerRun_missing hl hc] at h; cases h
    | some k => rw [packerRun_missing_cut hl hc] at h; cases h; exact .inl ⟨hl, by simp, rfl⟩
  · refine .inr ⟨hl, _, rfl, ?_⟩
    rw [packerRun_enough hl] at h
    cases legal with
    | false => rw [packerWork_illegal] at h; cases h; exact .inl ⟨rfl, rfl⟩
    | true =>
      refine .inr ?_
      cases hu : ({ s.w with payload := s.w.payload.drop len } : Packer).usable with
      | false => rw [packerWork_unusable hu] at h; cases h; exact .inl ⟨rfl, rfl, rfl⟩
      | true => rw [packerWork_usable hu] at h; exact .inr ⟨rfl, rfl, h⟩

/-- Everything an `UNPACKER` command can do that has a next state. -/
theorem unpackerRun_next (h : unpackerRun legal rbody s = .next t) :
    legal = false ∧ t = { s with r := s.r.raise .errValidation } ∨
    legal = true ∧ s.r.usable = false ∧ t = { s with r := s.r.raise .errState } ∨
    legal = true ∧ s.r.usable = true ∧ finishUnpacker (rbody s.r) s = .next t := by
  cases legal with
  | false => rw [unpackerRun_illegal] at h; cases h; exact .inl ⟨rfl, rfl⟩
  | true =>
    refine .inr ?_
    cases hu : s.r.usable with
    | false => rw [unpackerRun_unusable hu] at h; cases h; exact .inl ⟨rfl, rfl, rfl⟩
    | true => rw [unpackerRun_usable hu] at h; exact .inr ⟨rfl, rfl, h⟩

end

end Sys2Proof.Machine
end

