-- ==== Sys2Proof/Laws/Write.lean ====
section
/-! SUPPORT. What every write procedure does to the engine, wherever it ends: it sends some bytes, counts
them, and leaves alone all that a procedure has no business with. -/

namespace Sys2Proof.Machine

/-- `p'` is reached from `p` by transfers alone: bytes appended to `SINK` and counted, `cursor` and
`partial` as may be. -/
structure Packer.Sends (p p' : Packer) : Prop where
  sent : ∃ new, p'.sink = p.sink ++ new ∧ p'.count = p.count + new.length
  faulted : p'.faulted = p.faulted
  bound : p'.bound = p.bound
  payload : p'.payload = p.payload
  response : p'.response = p.response
  draws : p'.draws = p.draws
  params : p'.params = p.params
  cut : p'.cut.isSome = p.cut.isSome
  room : p.count < 2 ^ p.params.cntW → p'.count < 2 ^ p'.params.cntW

theorem Packer.Sends.refl (p : Packer) : p.Sends p :=
  ⟨⟨[], by simp⟩, rfl, rfl, rfl, rfl, rfl, rfl, rfl, id⟩

theorem Packer.Sends.trans {p p' p'' : Packer} (h : p.Sends p') (h' : p'.Sends p'') : p.Sends p'' := by
  obtain ⟨x, hx, hx'⟩ := h.sent
  obtain ⟨y, hy, hy'⟩ := h'.sent
  exact ⟨⟨x ++ y, by simp [hy, hx], by simp [hy', hx', Nat.add_assoc]⟩, h'.faulted.trans h.faulted,
    h'.bound.trans h.bound, h'.payload.trans h.payload, h'.response.trans h.response,
    h'.draws.trans h.draws, h'.params.trans h.params, h'.cut.trans h.cut,
    fun hr => h'.room (h.room hr)⟩

@[simp] theorem countdown_isSome (c : Option Nat) : (countdown c).isSome = c.isSome := by
  cases c <;> rfl

theorem Packer.sinkPut_sends (b : Byte) (p : Packer) : p.Sends (p.sinkPut b).final := by
  rcases p.sinkPut_cases b with ⟨-, h⟩ | ⟨-, o, ⟨-, h⟩ | ⟨-, h⟩ | ⟨-, hr, h⟩ | ⟨-, -, h⟩⟩ <;> rw [h]
  · exact .refl p
  · exact .refl p
  · exact ⟨⟨[], by simp⟩, rfl, rfl, rfl, rfl, rfl, rfl, rfl, id⟩
  · exact ⟨⟨[b], by simp⟩, rfl, rfl, rfl, rfl, rfl, rfl, by simp, fun _ => hr⟩
  · exact .refl p

/-- Bits placed in the partial byte are no transfer. -/
theorem Packer.Sends.place (p : Packer) (x : BitVec 8) (c : BitVec 3) :
    p.Sends { p with partialByte := x, cursor := c } :=
  ⟨⟨[], by simp⟩, rfl, rfl, rfl, rfl, rfl, rfl, rfl, id⟩

theorem wPlace_sends (v : Bits) (p : Packer) : p.Sends (wPlace v p).final := by
  unfold wPlace
  dsimp only
  split
  · exact (Packer.Sends.place p _ _).trans (Packer.sinkPut_sends _ _)
  · exact .place p _ _

theorem Run.bind_sends {α β : Type} {x : Run Packer α} {f : α → Packer → Run Packer β} {p : Packer}
    (hx : p.Sends x.final) (hf : ∀ a t, Packer.Sends t (f a t).final) :
    p.Sends (x.bind f).final :=
  Run.final_bind (R := Packer.Sends) (fun _ _ _ => Packer.Sends.trans) hx hf

theorem wU8Rec_sends (depth : Nat) (v : Bits) (p : Packer) : p.Sends (wU8Rec depth v p).final := by
  induction depth generalizing v p with
  | zero => exact .refl p
  | succ d ih =>
    rw [wU8Rec]
    split
    · exact Packer.sinkPut_sends _ _
    · dsimp only
      split
      · exact Run.bind_sends (ih _ _) fun _ t => ih _ t
      · exact wPlace_sends _ _

theorem wU8_sends (v : Bits) (p : Packer) : p.Sends (wU8 v p).final := wU8Rec_sends 2 v p

section
variable {chunk : Nat} {write : Bits → Packer → Run Packer Unit}

theorem wChunks_sends (hw : ∀ v p, Packer.Sends p (write v p).final) (n : Nat) (v : Bits)
    (p : Packer) : p.Sends (wChunks chunk write n v p).final := by
  induction n generalizing v p with
  | zero => exact .refl p
  | succ n ih => exact Run.bind_sends (hw _ _) fun _ t => ih _ t

theorem wSplit_sends (hw : ∀ v p, Packer.Sends p (write v p).final) (v : Bits) (p : Packer) :
    p.Sends (wSplit chunk write v p).final := by
  unfold wSplit
  dsimp only
  split
  · exact Run.bind_sends (hw _ _) fun _ t => wChunks_sends hw _ _ t
  · exact wChunks_sends hw _ _ p

end

theorem wU16_sends (v : Bits) (p : Packer) : p.Sends (wU16 v p).final := wSplit_sends wU8_sends v p

theorem wU32_sends (v : Bits) (p : Packer) : p.Sends (wU32 v p).final := wSplit_sends wU16_sends v p

theorem wU64_sends (v : Bits) (p : Packer) : p.Sends (wU64 v p).final := wSplit_sends wU32_sends v p

theorem wUnsigned_sends (n : Native) (v : Bits) (p : Packer) : p.Sends (wUnsigned n v p).final := by
  cases n
  · exact wU8_sends v p
  · exact wU16_sends v p
  · exact wU32_sends v p
  · exact wU64_sends v p

theorem wSigned_sends (n : Native) (v : Bits) (p : Packer) : p.Sends (wSigned n v p).final := by
  refine Run.bind_sends (wU8_sends _ _) fun _ t => ?_
  split
  · exact wUnsigned_sends n _ t
  · exact .refl t

theorem wField_sends (n : Native) (u : Signedness) (v : Bits) (p : Packer) :
    p.Sends (wField n u v p).final := by
  cases u
  · exact wUnsigned_sends n v p
  · exact wSigned_sends n v p

theorem wPad_sends (fuel boundary bits : Nat) (p : Packer) :
    p.Sends (wPad fuel boundary bits p).final := by
  induction fuel generalizing bits p with
  | zero => exact .refl p
  | succ f ih =>
    rw [wPad]
    split
    · exact .refl p
    · exact Run.bind_sends (wU8_sends _ _) fun _ t => ih _ t

theorem wAlign_sends (boundary : Nat) (p : Packer) : p.Sends (wAlign boundary p).final := by
  unfold wAlign
  split
  · exact Run.bind_sends (wU8_sends _ _) fun _ t => wPad_sends _ _ _ t
  · exact wPad_sends _ _ _ p

theorem wElements_sends (range : Nat) (d : List Byte) (p : Packer) :
    p.Sends (wElements range d p).final := by
  induction d generalizing p with
  | nil => exact .refl p
  | cons b d ih => exact Run.bind_sends (wU8_sends _ _) fun _ t => ih t

theorem wSequence_sends (scale range : Nat) (d : List Byte) (p : Packer) :
    p.Sends (wSequence scale range d p).final :=
  Run.bind_sends (wU32_sends _ _) fun _ t => wElements_sends _ _ t

theorem returnZero_sends {x : Run Packer Unit} {p : Packer} (h : p.Sends x.final) :
    p.Sends (returnZero x).final :=
  Run.bind_sends h fun _ t => .refl t

end Sys2Proof.Machine
end

