-- ==== Sys2Proof/Laws/Read.lean ====
section
/-! SUPPORT. What every read procedure does to the engine, wherever it ends: it takes some bytes off `SRC`,
counts them, and leaves alone all that a procedure has no business with. -/

namespace Sys2Proof.Machine

/-- `q'` is reached from `q` by transfers alone: bytes gone from the front of `SRC` and counted, `cursor`
and `partial` as may be. -/
structure Unpacker.Pulls (q q' : Unpacker) : Prop where
  pulled : ∃ gone, q.source = gone ++ q'.source ∧ q'.count = q.count + gone.length
  faulted : q'.faulted = q.faulted
  bound : q'.bound = q.bound
  response : q'.response = q.response
  draws : q'.draws = q.draws
  params : q'.params = q.params
  cut : q'.cut.isSome = q.cut.isSome
  room : q.count < 2 ^ q.params.cntW → q'.count < 2 ^ q'.params.cntW

theorem Unpacker.Pulls.refl (q : Unpacker) : q.Pulls q :=
  ⟨⟨[], by simp⟩, rfl, rfl, rfl, rfl, rfl, rfl, id⟩

theorem Unpacker.Pulls.trans {q q' q'' : Unpacker} (h : q.Pulls q') (h' : q'.Pulls q'') :
    q.Pulls q'' := by
  obtain ⟨x, hx, hx'⟩ := h.pulled
  obtain ⟨y, hy, hy'⟩ := h'.pulled
  exact ⟨⟨x ++ y, by simp [hx, hy], by simp [hy', hx', Nat.add_assoc]⟩, h'.faulted.trans h.faulted,
    h'.bound.trans h.bound, h'.response.trans h.response, h'.draws.trans h.draws,
    h'.params.trans h.params, h'.cut.trans h.cut, fun hr => h'.room (h.room hr)⟩

theorem Unpacker.srcGet_pulls (q : Unpacker) : q.Pulls q.srcGet.final := by
  rcases q.srcGet_cases with
    ⟨-, h⟩ | ⟨-, o, ⟨-, h⟩ | ⟨-, h⟩ | ⟨b, rest, -, hs, ⟨hr, h⟩ | ⟨-, h⟩⟩⟩ <;> rw [h]
  · exact .refl q
  · exact .refl q
  · exact ⟨⟨[], by simp⟩, rfl, rfl, rfl, rfl, rfl, rfl, id⟩
  · exact ⟨⟨[b], by simp [hs]⟩, rfl, rfl, rfl, rfl, rfl, by simp, fun _ => hr⟩
  · exact .refl q

theorem Run.bind_pulls {α β : Type} {x : Run Unpacker α} {f : α → Unpacker → Run Unpacker β}
    {q : Unpacker} (hx : q.Pulls x.final) (hf : ∀ a t, Unpacker.Pulls t (f a t).final) :
    q.Pulls (x.bind f).final :=
  Run.final_bind (R := Unpacker.Pulls) (fun _ _ _ => Unpacker.Pulls.trans) hx hf

theorem rDeliver_pulls (size : Nat) (q : Unpacker) : q.Pulls (rDeliver size q).final :=
  ⟨⟨[], by simp [rDeliver]⟩, rfl, rfl, rfl, rfl, rfl, rfl, id⟩

theorem rTake_pulls (size : Nat) (q : Unpacker) : q.Pulls (rTake size q).final := by
  unfold rTake
  split
  · exact Run.bind_pulls q.srcGet_pulls fun _ t => rDeliver_pulls size t
  · exact rDeliver_pulls size q

theorem rU8Rec_pulls (depth size : Nat) (q : Unpacker) : q.Pulls (rU8Rec depth size q).final := by
  induction depth generalizing size q with
  | zero => exact .refl q
  | succ d ih =>
    rw [rU8Rec]
    split
    · exact Run.bind_pulls q.srcGet_pulls fun _ t => .refl t
    · dsimp only
      split
      · exact Run.bind_pulls (ih _ _) fun _ t => Run.bind_pulls (ih _ t) fun _ t' => .refl t'
      · exact rTake_pulls _ _

theorem rU8_pulls (size : Nat) (q : Unpacker) : q.Pulls (rU8 size q).final := rU8Rec_pulls 2 size q

section
variable {chunk : Nat} {read : Nat → Unpacker → Run Unpacker Bits}

theorem rChunks_pulls (hr : ∀ n q, Unpacker.Pulls q (read n q).final) (n : Nat) (v : Bits)
    (q : Unpacker) : q.Pulls (rChunks chunk read n v q).final := by
  induction n generalizing v q with
  | zero => exact .refl q
  | succ n ih => exact Run.bind_pulls (hr _ _) fun _ t => ih _ t

theorem rSplit_pulls (hr : ∀ n q, Unpacker.Pulls q (read n q).final) (size : Nat) (q : Unpacker) :
    q.Pulls (rSplit chunk read size q).final := by
  unfold rSplit
  dsimp only
  split
  · exact Run.bind_pulls (hr _ _) fun _ t => rChunks_pulls hr _ _ t
  · exact rChunks_pulls hr _ _ q

end

theorem rU16_pulls (size : Nat) (q : Unpacker) : q.Pulls (rU16 size q).final :=
  rSplit_pulls rU8_pulls size q

theorem rU32_pulls (size : Nat) (q : Unpacker) : q.Pulls (rU32 size q).final :=
  rSplit_pulls rU16_pulls size q

theorem rU64_pulls (size : Nat) (q : Unpacker) : q.Pulls (rU64 size q).final :=
  rSplit_pulls rU32_pulls size q

theorem rUnsigned_pulls (n : Native) (size : Nat) (q : Unpacker) :
    q.Pulls (rUnsigned n size q).final := by
  cases n
  · exact rU8_pulls size q
  · exact rU16_pulls size q
  · exact rU32_pulls size q
  · exact rU64_pulls size q

theorem rSigned_pulls (n : Native) (size : Nat) (q : Unpacker) :
    q.Pulls (rSigned n size q).final := by
  refine Run.bind_pulls (rU8_pulls _ _) fun _ t => ?_
  split
  · exact Run.bind_pulls (rUnsigned_pulls n _ t) fun _ t' => .refl t'
  · exact .refl t

theorem rField_pulls (n : Native) (u : Signedness) (size : Nat) (q : Unpacker) :
    q.Pulls (rField n u size q).final := by
  cases u
  · exact Run.bind_pulls (rUnsigned_pulls n size q) fun _ t => .refl t
  · exact Run.bind_pulls (rSigned_pulls n size q) fun _ t => .refl t

theorem rSkip_pulls (fuel boundary bits : Nat) (q : Unpacker) :
    q.Pulls (rSkip fuel boundary bits q).final := by
  induction fuel generalizing bits q with
  | zero => exact .refl q
  | succ f ih =>
    rw [rSkip]
    split
    · exact .refl q
    · exact Run.bind_pulls (rU8_pulls _ _) fun _ t => ih _ t

theorem rAlign_pulls (boundary : Nat) (q : Unpacker) : q.Pulls (rAlign boundary q).final := by
  unfold rAlign
  split
  · exact Run.bind_pulls (rU8_pulls _ _) fun _ t => rSkip_pulls _ _ _ t
  · exact rSkip_pulls _ _ _ q

theorem rElements_pulls (range n : Nat) (q : Unpacker) :
    q.Pulls (rElements range n q).final := by
  induction n generalizing q with
  | zero => exact .refl q
  | succ n ih =>
    exact Run.bind_pulls (rU8_pulls _ _) fun _ t => Run.bind_pulls (ih t) fun _ t' => .refl t'

theorem rSequence_pulls (scale range : Nat) (q : Unpacker) :
    q.Pulls (rSequence scale range q).final :=
  Run.bind_pulls (rU32_pulls _ _) fun _ t =>
    Run.bind_pulls (rElements_pulls _ _ t) fun _ t' => .refl t'

theorem withoutPayload_pulls {x : Run Unpacker (BitVec 64)} {q : Unpacker} (h : q.Pulls x.final) :
    q.Pulls (withoutPayload x).final :=
  Run.bind_pulls h fun _ t => .refl t

end Sys2Proof.Machine
end

