-- ==== Sys2Proof/Laws/Exec.lean ====
section
/-! SUPPORT. Every command is the order of work of its engine (30_encoding.md R103) around a body; what a
step does; how a word is presented. -/

namespace Sys2Proof.Machine

/-- The pseudocode of a `PACKER` command, step 5 of R103. -/
def packerBody (i : Instr) (c : Params) (d : List Byte) (p : Packer) : Run Packer (BitVec 64) :=
  match i with
  | .wbool b => returnZero (wU8 [b] p)
  | .wbyte u size v => returnZero (wField .byte u (bitsOf v size) p)
  | .wshort u size v => returnZero (wField .short u (bitsOf v size) p)
  | .wint u size v => returnZero (wField .int u (bitsOf v size) p)
  | .wlong u size v => returnZero (wField .long u (bitsOf v size) p)
  | .wchar size v => returnZero (wU16 (bitsOf v size) p)
  | .walign boundary =>
    (wAlign boundary.toNat p).bind fun bits p' => .done (paddingResult bits) p'
  | .wbytes scale range _ => returnZero (wSequence scale range d p)
  | .wstr _ => returnZero (wSequence c.strScale c.strRange d p)
  | .wascii _ => returnZero (wSequence c.strScale c.asciiRange d p)
  | _ => .done 0#64 p

/-- The pseudocode of an `UNPACKER` command, step 5 of R103. -/
def unpackerBody (i : Instr) (c : Params) (q : Unpacker) : Run Unpacker (BitVec 64 × List Byte) :=
  match i with
  | .rbool => withoutPayload ((rU8 1 q).bind fun v q' => .done (zext64 v) q')
  | .rbyte u size => withoutPayload (rField .byte u size q)
  | .rshort u size => withoutPayload (rField .short u size q)
  | .rint u size => withoutPayload (rField .int u size q)
  | .rlong u size => withoutPayload (rField .long u size q)
  | .rchar size => withoutPayload ((rU16 size q).bind fun v q' => .done (zext64 v) q')
  | .ralign boundary => withoutPayload
      ((rAlign boundary.toNat q).bind fun bits q' => .done (paddingResult bits) q')
  | .rbytes scale range => rSequence scale range q
  | .rstr => rSequence c.strScale c.strRange q
  | .rascii => rSequence c.strScale c.asciiRange q
  | _ => .done (0#64, []) q

/-- A command of `PACKER` is the order of work of R103 around its body. -/
theorem exec_packer {i : Instr} (s : State) (h : i.engine = .packer) :
    exec i s = packerRun i.payloadLength (s.legal i) (packerBody i s.w.params) s := by
  cases i <;> first | rfl | cases h

/-- A command of `UNPACKER` is the order of work of R103 around its body. -/
theorem exec_unpacker {i : Instr} (s : State) (h : i.engine = .unpacker) :
    exec i s = unpackerRun (s.legal i) (unpackerBody i s.r.params) s := by
  cases i <;> first | rfl | cases h

theorem packerBody_sends (i : Instr) (c : Params) (d : List Byte) (p : Packer) :
    p.Sends (packerBody i c d p).final := by
  cases i <;> unfold packerBody <;> dsimp only <;>
    first
    | exact returnZero_sends (wU8_sends _ _)
    | exact returnZero_sends (wField_sends _ _ _ _)
    | exact returnZero_sends (wU16_sends _ _)
    | exact returnZero_sends (wSequence_sends _ _ _ _)
    | exact Run.bind_sends (wAlign_sends _ _) fun _ t => .refl t
    | exact .refl p

theorem unpackerBody_pulls (i : Instr) (c : Params) (q : Unpacker) :
    q.Pulls (unpackerBody i c q).final := by
  cases i <;> unfold unpackerBody <;> dsimp only <;>
    first
    | exact withoutPayload_pulls (rField_pulls _ _ _ _)
    | exact withoutPayload_pulls (Run.bind_pulls (rU8_pulls _ _) fun _ t => .refl t)
    | exact withoutPayload_pulls (Run.bind_pulls (rU16_pulls _ _) fun _ t => .refl t)
    | exact withoutPayload_pulls (Run.bind_pulls (rAlign_pulls _ _) fun _ t => .refl t)
    | exact rSequence_pulls _ _ _
    | exact .refl q

/-- The payload length of a decoded command is the one its word alone gives (30_encoding.md R96). -/
theorem wordPayloadLength_of_decode {w : CommandWord} {boundaryW : Nat} {i : Instr}
    (h : decode w boundaryW = .ok i) :
    wordPayloadLength w = i.payloadLength := by
  unfold decode decodeFields at h
  split at h
  · cases h
  · unfold wordPayloadLength
    generalize Fields.ofWord w = f at h
    have ok : ∀ {l : List (Bool × DecodeError)} {j : Instr}, unlessStray l j = .ok i → j = i := by
      intro l j hj
      unfold unlessStray at hj
      split at hj <;> cases hj
      rfl
    split at h
    any_goals (have hi := ok h; subst hi; simp_all [Instr.payloadLength])
    cases h

/-- The next step of a state that presents a legal word to an engine runs the word's command, if the engine
was built with the default `BOUNDARY_W`. -/
theorem step_withFetchWord {s : State} {w : Nat} {i : Instr}
    (hw32 : s.w.params.boundaryW = 32) (hr32 : s.r.params.boundaryW = 32)
    (h : decodeTableWord 96 w = some i) (he : i.engine = wordEngine (BitVec.ofNat 96 (w % 2 ^ 96))) :
    step (s.withFetchWord 96 w) = exec i (match i.engine with
      | .packer => { s with w := { s.w with
          response := none, payload := List.replicate i.payloadLength 0#8, cut := none } }
      | .unpacker => { s with r := { s.r with response := none, cut := none } }) := by
  generalize hw : BitVec.ofNat 96 (w % 2 ^ 96) = word at he
  have hd : decode word = .ok i := by
    unfold decodeTableWord at h
    rw [hw] at h
    split at h
    · next j hj => cases h; exact hj
    · cases h
  have hp := wordPayloadLength_of_decode hd
  unfold State.withFetchWord
  rw [hw]
  cases hv : wordEngine word <;> rw [hv] at he <;>
    simp [step, fetch, State.present, commandEvent, hv, handle, fetchPacker, fetchUnpacker,
      decodeFor, hw32, hr32, hd, he, hp, State.acceptPacker, State.acceptUnpacker]

end Sys2Proof.Machine
end

