-- ==== Sys2Proof/Laws/PerInstr.lean ====
section
/-! SUPPORT. Statements about every command, one lemma per constructor. -/

namespace Sys2Proof.Laws

/-- The upper half of the opcode in a word built from fields (30_encoding.md R90, R91). -/
theorem wordEngine_toWord {f : Fields} {opc : BitVec 8} {e : Engine} (hf : f.opc = opc)
    (he : (if opc.extractLsb' 4 4 = 0x2#4 then Engine.unpacker else .packer) = e) :
    wordEngine f.toWord = e := by
  have h : f.toWord.extractLsb' 92 4 = f.opc.extractLsb' 4 4 := by
    apply BitVec.eq_of_getLsbD_eq
    intro i hi
    simp only [Fields.toWord, BitVec.getLsbD_extractLsb', BitVec.getLsbD_append]
    grind
  rw [wordEngine, h, hf, he]

/-- The payload length of a word built from fields, by their `OPC` and `LEN` (30_encoding.md R96). -/
theorem wordPayloadLength_toWord {f : Fields} {opc n : Nat} (h : f.opc.toNat = opc) :
    (opc = 0x17 ∨ opc = 0x18 ∨ opc = 0x19 → f.len = n) →
    (¬(opc = 0x17 ∨ opc = 0x18 ∨ opc = 0x19) → n = 0) → wordPayloadLength f.toWord = n := by
  intro hl h0
  rw [wordPayloadLength, Fields.ofWord_toWord, h]
  split <;> simp_all

/-- `LEN` of a length that fits its field (30_encoding.md R95). -/
theorem len_ofNat {f : Fields} {n : Nat} (hv : f.value = BitVec.ofNat 64 n)
    (h : fitsLength n = true) : f.len = n := by
  simp only [fitsLength, decide_eq_true_eq] at h
  simp only [Fields.len, hv, BitVec.extractLsb'_toNat, BitVec.toNat_ofNat, Nat.shiftRight_zero]
  omega

/-! ## R91: `OPC[7:4]` of an encoded command selects its engine -/

namespace EncodedEngine

def Statement (i : Instr) : Prop := wordEngine (encode i) = i.engine

theorem wbool (b : Bool) : Statement (.wbool b) :=
  wordEngine_toWord (opc := 0x10#8) (e := .packer) rfl (by decide)

theorem wbyte (u : Signedness) (size : Nat) (v : BitVec 8) : Statement (.wbyte u size v) :=
  wordEngine_toWord (opc := 0x11#8) (e := .packer) rfl (by decide)

theorem wshort (u : Signedness) (size : Nat) (v : BitVec 16) : Statement (.wshort u size v) :=
  wordEngine_toWord (opc := 0x12#8) (e := .packer) rfl (by decide)

theorem wint (u : Signedness) (size : Nat) (v : BitVec 32) : Statement (.wint u size v) :=
  wordEngine_toWord (opc := 0x13#8) (e := .packer) rfl (by decide)

theorem wlong (u : Signedness) (size : Nat) (v : BitVec 64) : Statement (.wlong u size v) :=
  wordEngine_toWord (opc := 0x14#8) (e := .packer) rfl (by decide)

theorem wchar (size : Nat) (v : BitVec 16) : Statement (.wchar size v) :=
  wordEngine_toWord (opc := 0x15#8) (e := .packer) rfl (by decide)

theorem walign (boundary : Int) : Statement (.walign boundary) :=
  wordEngine_toWord (opc := 0x16#8) (e := .packer) rfl (by decide)

theorem wbytes (scale : Nat) (range : Nat) (len : Nat) : Statement (.wbytes scale range len) :=
  wordEngine_toWord (opc := 0x17#8) (e := .packer) rfl (by decide)

theorem wstr (len : Nat) : Statement (.wstr len) :=
  wordEngine_toWord (opc := 0x18#8) (e := .packer) rfl (by decide)

theorem wascii (len : Nat) : Statement (.wascii len) :=
  wordEngine_toWord (opc := 0x19#8) (e := .packer) rfl (by decide)

theorem rbool : Statement (.rbool) :=
  wordEngine_toWord (opc := 0x20#8) (e := .unpacker) rfl (by decide)

theorem rbyte (u : Signedness) (size : Nat) : Statement (.rbyte u size) :=
  wordEngine_toWord (opc := 0x21#8) (e := .unpacker) rfl (by decide)

theorem rshort (u : Signedness) (size : Nat) : Statement (.rshort u size) :=
  wordEngine_toWord (opc := 0x22#8) (e := .unpacker) rfl (by decide)

theorem rint (u : Signedness) (size : Nat) : Statement (.rint u size) :=
  wordEngine_toWord (opc := 0x23#8) (e := .unpacker) rfl (by decide)

theorem rlong (u : Signedness) (size : Nat) : Statement (.rlong u size) :=
  wordEngine_toWord (opc := 0x24#8) (e := .unpacker) rfl (by decide)

theorem rchar (size : Nat) : Statement (.rchar size) :=
  wordEngine_toWord (opc := 0x25#8) (e := .unpacker) rfl (by decide)

theorem ralign (boundary : Int) : Statement (.ralign boundary) :=
  wordEngine_toWord (opc := 0x26#8) (e := .unpacker) rfl (by decide)

theorem rbytes (scale : Nat) (range : Nat) : Statement (.rbytes scale range) :=
  wordEngine_toWord (opc := 0x27#8) (e := .unpacker) rfl (by decide)

theorem rstr : Statement (.rstr) :=
  wordEngine_toWord (opc := 0x28#8) (e := .unpacker) rfl (by decide)

theorem rascii : Statement (.rascii) :=
  wordEngine_toWord (opc := 0x29#8) (e := .unpacker) rfl (by decide)

end EncodedEngine

/-! ## R96: `OPC` and `LEN` of an encoded command give its payload length -/

namespace EncodedPayload

def Statement (i : Instr) : Prop :=
  ∀ boundaryW, i.wellFormed boundaryW = true → wordPayloadLength (encode i) = i.payloadLength

theorem wbool (b : Bool) : Statement (.wbool b) := fun _ _ =>
  wordPayloadLength_toWord (opc := 0x10) rfl (by simp) (fun _ => rfl)

theorem wbyte (u : Signedness) (size : Nat) (v : BitVec 8) : Statement (.wbyte u size v) := fun _ _ =>
  wordPayloadLength_toWord (opc := 0x11) rfl (by simp) (fun _ => rfl)

theorem wshort (u : Signedness) (size : Nat) (v : BitVec 16) : Statement (.wshort u size v) := fun _ _ =>
  wordPayloadLength_toWord (opc := 0x12) rfl (by simp) (fun _ => rfl)

theorem wint (u : Signedness) (size : Nat) (v : BitVec 32) : Statement (.wint u size v) := fun _ _ =>
  wordPayloadLength_toWord (opc := 0x13) rfl (by simp) (fun _ => rfl)

theorem wlong (u : Signedness) (size : Nat) (v : BitVec 64) : Statement (.wlong u size v) := fun _ _ =>
  wordPayloadLength_toWord (opc := 0x14) rfl (by simp) (fun _ => rfl)

theorem wchar (size : Nat) (v : BitVec 16) : Statement (.wchar size v) := fun _ _ =>
  wordPayloadLength_toWord (opc := 0x15) rfl (by simp) (fun _ => rfl)

theorem walign (boundary : Int) : Statement (.walign boundary) := fun _ _ =>
  wordPayloadLength_toWord (opc := 0x16) rfl (by simp) (fun _ => rfl)

theorem wbytes (scale : Nat) (range : Nat) (len : Nat) : Statement (.wbytes scale range len) := by
  intro _ h
  simp only [Instr.wellFormed, Bool.and_eq_true] at h
  exact wordPayloadLength_toWord (opc := 0x17) rfl (fun _ => len_ofNat rfl h.2) (by simp)

theorem wstr (len : Nat) : Statement (.wstr len) := fun _ h =>
  wordPayloadLength_toWord (opc := 0x18) rfl (fun _ => len_ofNat rfl h) (by simp)

theorem wascii (len : Nat) : Statement (.wascii len) := fun _ h =>
  wordPayloadLength_toWord (opc := 0x19) rfl (fun _ => len_ofNat rfl h) (by simp)

theorem rbool : Statement (.rbool) := fun _ _ =>
  wordPayloadLength_toWord (opc := 0x20) rfl (by simp) (fun _ => rfl)

theorem rbyte (u : Signedness) (size : Nat) : Statement (.rbyte u size) := fun _ _ =>
  wordPayloadLength_toWord (opc := 0x21) rfl (by simp) (fun _ => rfl)

theorem rshort (u : Signedness) (size : Nat) : Statement (.rshort u size) := fun _ _ =>
  wordPayloadLength_toWord (opc := 0x22) rfl (by simp) (fun _ => rfl)

theorem rint (u : Signedness) (size : Nat) : Statement (.rint u size) := fun _ _ =>
  wordPayloadLength_toWord (opc := 0x23) rfl (by simp) (fun _ => rfl)

theorem rlong (u : Signedness) (size : Nat) : Statement (.rlong u size) := fun _ _ =>
  wordPayloadLength_toWord (opc := 0x24) rfl (by simp) (fun _ => rfl)

theorem rchar (size : Nat) : Statement (.rchar size) := fun _ _ =>
  wordPayloadLength_toWord (opc := 0x25) rfl (by simp) (fun _ => rfl)

theorem ralign (boundary : Int) : Statement (.ralign boundary) := fun _ _ =>
  wordPayloadLength_toWord (opc := 0x26) rfl (by simp) (fun _ => rfl)

theorem rbytes (scale : Nat) (range : Nat) : Statement (.rbytes scale range) := fun _ _ =>
  wordPayloadLength_toWord (opc := 0x27) rfl (by simp) (fun _ => rfl)

theorem rstr : Statement (.rstr) := fun _ _ =>
  wordPayloadLength_toWord (opc := 0x28) rfl (by simp) (fun _ => rfl)

theorem rascii : Statement (.rascii) := fun _ _ =>
  wordPayloadLength_toWord (opc := 0x29) rfl (by simp) (fun _ => rfl)

end EncodedPayload

end Sys2Proof.Laws
end

