-- ==== Sys2Proof/Tests/Slice0.lean ====
section
/-! SUPPORT. Tests. Words and expected results are those of 95_test_vectors.md (the row is named) or are
worked out by hand from the rule named. The witnesses at the end show, for each statement with hypotheses,
a state and operands that meet them. -/

namespace Sys2Proof.Tests

open Sys2Proof Sys2Proof.Machine

/-! ## Helpers -/

/-- The writer with these registers; everything else as after reset. -/
def writer (x : BitVec 8) (c : BitVec 3) (n : Nat) : State :=
  { State.reset with w := { Packer.initial with partialByte := x, cursor := c, count := n } }

/-- The reader with these registers and this `SRC`; everything else as after reset. -/
def reader (x : BitVec 8) (c : BitVec 3) (n : Nat) (src : List Byte) : State :=
  { State.reset with
    r := { Unpacker.initial with partialByte := x, cursor := c, count := n, source := src } }

/-- `s` with `d` on the payload port of `PACKER`. -/
def withPayload (d : List Byte) (s : State) : State := { s with w := { s.w with payload := d } }

/-- `s` with these answers of the sink, then `fail`. -/
def sinkAnswers (l : List Answer) (s : State) : State :=
  { s with w := { s.w with answers := ⟨l, .fail⟩ } }

/-- `s` with these answers of the source, then `fail`. -/
def sourceAnswers (l : List Answer) (s : State) : State :=
  { s with r := { s.r with answers := ⟨l, .fail⟩ } }

/-- The next state of an outcome, or `s` when there is none. -/
def after (o : Host.Outcome State Fault Refusal) (s : State) : State :=
  match o with
  | .next t => t
  | .fault _ => s
  | .refused _ => s

def isNext (o : Host.Outcome State Fault Refusal) : Bool :=
  match o with
  | .next _ => true
  | .fault _ => false
  | .refused _ => false

/-- What a row of the write tables of 95_test_vectors.md shows: status, `RESULT`, the bytes appended to
`SINK`, cursor, pending bits, count. -/
def writes (i : Instr) (s : State) (st : Status) (v : BitVec 64) (sink : List Byte) (c : BitVec 3)
    (pend : Bits) (n : Nat) : Bool :=
  let t := after (exec i s) s
  isNext (exec i s) && t.w.response == some ⟨st, v, []⟩ && t.w.sink == s.w.sink ++ sink &&
    t.w.cursor == c && t.w.pending == pend && t.w.count == n

/-- What a row of the read tables shows: status, `RESULT`, payload, cursor, `R.partial`, count, `SRC`. -/
def reads (i : Instr) (s : State) (st : Status) (v : BitVec 64) (d : List Byte) (c : BitVec 3)
    (x : BitVec 8) (n : Nat) (src : List Byte) : Bool :=
  let t := after (exec i s) s
  isNext (exec i s) && t.r.response == some ⟨st, v, d⟩ && t.r.cursor == c && t.r.partialByte == x &&
    t.r.count == n && t.r.source == src

/-- A write that ends ERR_IO with these bytes accepted. -/
def writeFails (i : Instr) (s : State) (sink : List Byte) (n : Nat) : Bool :=
  let t := after (exec i s) s
  isNext (exec i s) && t.w.response == some ⟨.errIo, 0#64, []⟩ && t.w.sink == s.w.sink ++ sink &&
    t.w.count == n && t.w.faulted

/-- A read that ends ERR_IO with this much left in `SRC`. -/
def readFails (i : Instr) (s : State) (n : Nat) (src : List Byte) : Bool :=
  let t := after (exec i s) s
  isNext (exec i s) && t.r.response == some ⟨.errIo, 0#64, []⟩ && t.r.source == src &&
    t.r.count == n && t.r.faulted

/-! ## WellFormed: an ill-formed term for each check is refused -/

theorem test_illFormed_size_256 :
    Instr.wellFormed (Instr.wbyte .unsigned 256 0#8) = false := by decide

theorem test_illFormed_read_size_256 :
    Instr.wellFormed (Instr.rlong .signed 256) = false := by decide

theorem test_illFormed_char_size_256 :
    Instr.wellFormed (Instr.wchar 256 0#16) = false := by decide

theorem test_illFormed_scale_256 :
    Instr.wellFormed (Instr.wbytes 256 8 0) = false := by decide

theorem test_illFormed_range_256 :
    Instr.wellFormed (Instr.rbytes 8 256) = false := by decide

theorem test_illFormed_len_2_32 :
    Instr.wellFormed (Instr.wstr 4294967296) = false := by decide

theorem test_illFormed_bytes_len_2_32 :
    Instr.wellFormed (Instr.wbytes 8 8 4294967296) = false := by decide

theorem test_illFormed_boundary_high :
    Instr.wellFormed (Instr.walign 2147483648) = false := by decide

theorem test_illFormed_boundary_low :
    Instr.wellFormed (Instr.ralign (-2147483649)) = false := by decide

theorem test_wellFormed_limits :
    Instr.wellFormed (.wbytes 255 255 4294967295) = true ∧
      Instr.wellFormed (.walign 2147483647) = true ∧ Instr.wellFormed (.ralign (-2147483648)) = true := by decide

/-! ## Decode: words of 95_test_vectors.md, one for every command, and illegal ones -/

/-- T1 -/
theorem test_decode_wbool :
    decode 0x100000000000000000000001#96 = .ok (.wbool true) := by decide

/-- T10 -/
theorem test_decode_wbyte :
    decode 0x1101070000000000000000FF#96 = .ok (.wbyte .unsigned 7 0xFF#8) := by decide

/-- T22 -/
theorem test_decode_wshort :
    decode 0x120010000000000000008001#96 = .ok (.wshort .signed 16 0x8001#16) := by decide

/-- T25 -/
theorem test_decode_wint :
    decode 0x13011F00000000007FFFFFFF#96 = .ok (.wint .unsigned 31 0x7FFFFFFF#32) := by decide

/-- T37 -/
theorem test_decode_wlong :
    decode 0x140040008000000000000001#96 = .ok (.wlong .signed 64 0x8000000000000001#64) := by decide

/-- T50 -/
theorem test_decode_wchar :
    decode 0x1500090000000000000001A5#96 = .ok (.wchar 9 0x1A5#16) := by decide

/-- T58 -/
theorem test_decode_walign :
    decode 0x16000000FFFFFFFF80000000#96 = .ok (.walign (-2147483648)) := by decide

/-- T63 -/
theorem test_decode_wbytes :
    decode 0x170004070000000000000002#96 = .ok (.wbytes 4 7 2) := by decide

/-- T73 -/
theorem test_decode_wstr :
    decode 0x180000000000000000000002#96 = .ok (.wstr 2) := by decide

/-- T75 -/
theorem test_decode_wascii :
    decode 0x190000000000000000000001#96 = .ok (.wascii 1) := by decide

/-- T78 -/
theorem test_decode_rbool :
    decode 0x200000000000000000000000#96 = .ok (.rbool) := by decide

/-- T87 -/
theorem test_decode_rbyte :
    decode 0x210107000000000000000000#96 = .ok (.rbyte .unsigned 7) := by decide

/-- T99 -/
theorem test_decode_rshort :
    decode 0x220010000000000000000000#96 = .ok (.rshort .signed 16) := by decide

/-- T107 -/
theorem test_decode_rint :
    decode 0x230021000000000000000000#96 = .ok (.rint .signed 33) := by decide

/-- T116 -/
theorem test_decode_rlong :
    decode 0x240128000000000000000000#96 = .ok (.rlong .unsigned 40) := by decide

/-- T125 -/
theorem test_decode_rchar :
    decode 0x250009000000000000000000#96 = .ok (.rchar 9) := by decide

/-- T132 -/
theorem test_decode_ralign :
    decode 0x26000000FFFFFFFFFFFFFFFF#96 = .ok (.ralign (-1)) := by decide

/-- T145 -/
theorem test_decode_rbytes :
    decode 0x270002080000000000000000#96 = .ok (.rbytes 2 8) := by decide

/-- T151 -/
theorem test_decode_rstr :
    decode 0x280000000000000000000000#96 = .ok (.rstr) := by decide

/-- T152 -/
theorem test_decode_rascii :
    decode 0x290000000000000000000000#96 = .ok (.rascii) := by decide

/-- T156, T158: the ignored bits of `VALUE` are no part of the command -/
theorem test_decode_ignoredBits :
    decode 0x10000000FFFFFFFFFFFFFFFE#96 = .ok (.wbool false) ∧
      decode 0x16000000DEADBEEF00000001#96 = .ok (.walign 1) := by decide

/-- T159 to T161, T175: reserved opcodes -/
theorem test_decode_reserved :
    decode 0x000000000000000000000000#96 = .error .reservedOpcode ∧
      decode 0x1A0000000000000000000000#96 = .error .reservedOpcode ∧
      decode 0xFF0000000000000000000000#96 = .error .reservedOpcode ∧
      decode 0x2A0000000000000000000000#96 = .error .reservedOpcode := by decide

/-- T163, T164, T179: `RSV` is not 0 -/
theorem test_decode_rsv :
    decode 0x11020700000000000000007F#96 = .error .reservedBits ∧
      decode 0x11810700000000000000007F#96 = .error .reservedBits ∧
      decode 0x210307000000000000000000#96 = .error .reservedBits := by decide

/-- T165 to T173: a field that must be 0 is not -/
theorem test_decode_strayWrite :
    decode 0x100100000000000000000001#96 = .error .strayU ∧
      decode 0x100001000000000000000001#96 = .error .straySize ∧
      decode 0x11010701000000000000007F#96 = .error .strayRange ∧
      decode 0x150108000000000000000041#96 = .error .strayU ∧
      decode 0x160001000000000000000004#96 = .error .straySize ∧
      decode 0x170104080000000000000002#96 = .error .strayU ∧
      decode 0x170004080000000100000000#96 = .error .strayValue ∧
      decode 0x180010000000000000000000#96 = .error .straySize ∧
      decode 0x190000070000000000000000#96 = .error .strayRange := by decide

/-- T176 to T184: the same of the reads -/
theorem test_decode_strayRead :
    decode 0x200000000000000000000001#96 = .error .strayValue ∧
      decode 0x210107000000000000000001#96 = .error .strayValue ∧
      decode 0x210107010000000000000000#96 = .error .strayRange ∧
      decode 0x250108000000000000000000#96 = .error .strayU ∧
      decode 0x260000010000000000000001#96 = .error .strayRange ∧
      decode 0x270104080000000000000000#96 = .error .strayU ∧
      decode 0x270004080000000000000001#96 = .error .strayValue ∧
      decode 0x280010000000000000000000#96 = .error .straySize := by decide

/-- D13 with `BOUNDARY_W = 16`: the low 16 bits are the boundary, the bits above are ignored -/
theorem test_decode_boundaryW16 :
    decode 0x16000000000000000000FFFF#96 16 = .ok (.walign (-1)) ∧
      decode 0x260000000000000000017FFF#96 16 = .ok (.ralign 32767) := by decide

/-- D13: an engine reads the boundary with its own `BOUNDARY_W`, here 16 -/
theorem test_step_boundaryW16 :
    let s : State :=
      { State.reset with
        w := { Packer.initial with params := { boundaryW := 16 } }
        host := [.packerCommand 0x160000000000000000010001#96 [] none] }
    step s = exec (.walign 1) { s with host := [] } := rfl

/-- T57: a negative boundary is encoded as 64-bit two's complement (R104) -/
theorem test_encode_negativeBoundary :
    encode (.walign (-1)) = 0x16000000FFFFFFFFFFFFFFFF#96 := by decide

/-- T162, T174: a command of the other engine -/
theorem test_decode_otherEngine :
    decodeFor .packer 0x200000000000000000000000#96 = .error .otherEngine ∧
      decodeFor .unpacker 0x100000000000000000000001#96 = .error .otherEngine := by decide

theorem test_decodeTableWord :
    decodeTableWord 96 0x1600000000000000FFFFFFFF = some (.walign (-1)) ∧
      decodeTableWord 96 0x1A0000000000000000000000 = none := by decide

/-- the table word of WBYTES 8, 8 with LEN = 2 runs as the first command after reset -/
theorem test_fetchWord :
    step (State.reset.withFetchWord 96 0x170008080000000000000002) =
      exec (.wbytes 8 8 2) (withPayload [0#8, 0#8] State.reset) := rfl

/-! ## One command each, from the state the row above leaves -/

/-- T14 -/
theorem test_wbool_completesByte :
    writes (.wbool true) (writer 0x1E#8 7#3 4)
      .ok 0#64 [0x1F#8] 0#3 [] 5 = true := by decide

/-- T2 -/
theorem test_wbool_pending :
    writes (.wbool false) (writer 0xFF#8 1#3 0)
      .ok 0#64 [] 2#3 [true, false] 0 = true := by decide

/-- T12 -/
theorem test_wbyte_crosses :
    writes (.wbyte .unsigned 7 0#8) (writer 0xD0#8 4#3 3)
      .ok 0#64 [0xD0#8] 3#3 [false, false, false] 4 = true := by decide

/-- T4 -/
theorem test_wbyte_size8_unsigned :
    writes (.wbyte .unsigned 8 0xFF#8) (writer 0#8 0#3 1)
      .errValidation 0#64 [] 0#3 [] 1 = true := by decide

/-- T22 -/
theorem test_wshort_crosses :
    writes (.wshort .signed 16 0x8001#16) (writer 0x78#8 7#3 3)
      .ok 0#64 [0x79#8, 0x00#8] 7#3 [false, false, false, false, false, false, true] 5 = true := by decide

/-- R233 -/
theorem test_wshort_size1_signed :
    writes (.wshort .signed 1 1#16) (writer 0#8 3#3 2)
      .errValidation 0#64 [] 3#3 [false, false, false] 2 = true := by decide

/-- T27 -/
theorem test_wint_aligned :
    writes (.wint .signed 32 0x80000000#32) (writer 0#8 0#3 4)
      .ok 0#64 [0x80#8, 0x00#8, 0x00#8, 0x00#8] 0#3 [] 8 = true := by decide

/-- T207 -/
theorem test_wint_refused :
    writeFails (.wint .signed 32 0x12345678#32) (sinkAnswers [.ok, .ok] (writer 0xA0#8 3#3 0))
      [0xA2#8, 0x46#8] 2 = true := by decide

/-- T44 -/
theorem test_wlong_crosses :
    writes (.wlong .unsigned 62 0x2AAAAAAAAAAAAAAA#64) (writer 0xF0#8 7#3 24)
      .ok 0#64 [0xF1#8, 0x55#8, 0x55#8, 0x55#8, 0x55#8, 0x55#8, 0x55#8, 0x55#8] 5#3 [false, true, false, true, false] 32 = true := by decide

/-- T39 -/
theorem test_wlong_size64_unsigned :
    writes (.wlong .unsigned 64 1#64) (writer 0#8 0#3 21)
      .errValidation 0#64 [] 0#3 [] 21 = true := by decide

/-- T50 -/
theorem test_wchar_crosses :
    writes (.wchar 9 0x1A5#16) (writer 0x80#8 1#3 2)
      .ok 0#64 [0xE9#8] 2#3 [false, true] 3 = true := by decide

/-- T48 -/
theorem test_wchar_size17 :
    writes (.wchar 17 1#16) (writer 0x80#8 1#3 2)
      .errValidation 0#64 [] 1#3 [true] 2 = true := by decide

/-- T54 -/
theorem test_walign_pads :
    writes (.walign 4) (writer 0xA0#8 3#3 1)
      .ok 0x15#64 [0xA0#8, 0x00#8, 0x00#8] 0#3 [] 4 = true := by decide

/-- T213 -/
theorem test_walign_refused :
    writeFails (.walign 4) (sinkAnswers [.ok] (writer 0xA0#8 3#3 1)) [0xA0#8] 2 = true := by decide

/-- T63 -/
theorem test_wbytes_elements :
    writes (.wbytes 4 7 2) (withPayload [0x48#8, 0x69#8] (writer 0#8 0#3 0))
      .ok 0#64 [0x29#8, 0x1A#8] 2#3 [false, true] 2 = true := by decide

/-- T64 -/
theorem test_wbytes_length :
    writes (.wbytes 2 8 4) (withPayload [1#8, 2#8, 3#8, 4#8] (writer 0x40#8 2#3 2))
      .errValidation 0#64 [] 2#3 [false, true] 2 = true := by decide

/-- T73 -/
theorem test_wstr_elements :
    writes (.wstr 2) (withPayload [0x41#8, 0x42#8] (writer 0#8 0#3 0))
      .ok 0#64 [0x00#8, 0x02#8, 0x41#8, 0x42#8] 0#3 [] 4 = true := by decide

/-- T76 -/
theorem test_wstr_empty :
    writes (.wstr 0) (writer 0x08#8 5#3 10)
      .ok 0#64 [0x08#8, 0x00#8] 5#3 [false, false, false, false, false] 12 = true := by decide

/-- T75 -/
theorem test_wascii_masks :
    writes (.wascii 1) (withPayload [0xC1#8] (writer 0x08#8 6#3 7))
      .ok 0#64 [0x08#8, 0x00#8, 0x06#8] 5#3 [false, false, false, false, true] 10 = true := by decide

/-- R252 -/
theorem test_wascii_unbound :
    writes (.wascii 1) (withPayload [0x41#8] { State.reset with w := { Packer.initial with bound := false } })
      .errState 0#64 [] 0#3 [] 0 = true := by decide

/-- T78 -/
theorem test_rbool_pulls :
    reads (.rbool) (reader 0#8 0#3 0 [0xBF#8, 0x80#8, 0xBF#8, 0xA1#8])
      .ok 1#64 [] 1#3 0xBF#8 1 [0x80#8, 0xBF#8, 0xA1#8] = true := by decide

/-- T220 -/
theorem test_rbool_empty :
    readFails .rbool (reader 0#8 0#3 0 []) 0 [] = true := by decide

/-- T86 -/
theorem test_rbyte_negative :
    reads (.rbyte .signed 2) (reader 0x80#8 0#3 2 [0xBF#8, 0xA1#8])
      .ok 0xFFFFFFFFFFFFFFFE#64 [] 2#3 0xBF#8 3 [0xA1#8] = true := by decide

/-- T82 -/
theorem test_rbyte_size0 :
    reads (.rbyte .unsigned 0) (reader 0xBF#8 0#3 1 [0x80#8])
      .errValidation 0#64 [] 0#3 0xBF#8 1 [0x80#8] = true := by decide

/-- T99 -/
theorem test_rshort_negative :
    reads (.rshort .signed 16) (reader 0xC8#8 4#3 5 [0x00#8, 0x1F#8, 0xFF#8, 0xE0#8])
      .ok 0xFFFFFFFFFFFF8001#64 [] 4#3 0x1F#8 7 [0xFF#8, 0xE0#8] = true := by decide

/-- T222 -/
theorem test_rshort_short :
    readFails (.rshort .unsigned 12) (reader 0#8 0#3 0 [0xA5#8]) 1 [] = true := by decide

/-- T104 -/
theorem test_rint_negative :
    reads (.rint .signed 32) (reader 0xFE#8 0#3 4 [0x80#8, 0#8, 0#8, 0#8, 0x7F#8])
      .ok 0xFFFFFFFF80000000#64 [] 0#3 0x00#8 8 [0x7F#8] = true := by decide +kernel

/-- T110 -/
theorem test_rint_crosses :
    reads (.rint .unsigned 20) (reader 0xFF#8 0#3 12 [0xAB#8, 0xCD#8, 0xE4#8])
      .ok 0xABCDE#64 [] 4#3 0xE4#8 15 [] = true := by decide

/-- T116 -/
theorem test_rlong_wide :
    reads (.rlong .unsigned 40) (reader 0x01#8 0#3 16 [0x12#8, 0x34#8, 0x56#8, 0x78#8, 0x9A#8, 0xFF#8])
      .ok 0x123456789A#64 [] 0#3 0x9A#8 21 [0xFF#8] = true := by decide

/-- T118 -/
theorem test_rlong_size65 :
    reads (.rlong .signed 65) (reader 0x9A#8 0#3 21 [0xFF#8])
      .errValidation 0#64 [] 0#3 0x9A#8 21 [0xFF#8] = true := by decide

/-- T125 -/
theorem test_rchar_crosses :
    reads (.rchar 9) (reader 0xE9#8 1#3 3 [0x50#8, 0x40#8])
      .ok 0x1A5#64 [] 2#3 0x50#8 4 [0x40#8] = true := by decide

/-- T124 -/
theorem test_rchar_size0 :
    reads (.rchar 0) (reader 0xE9#8 1#3 3 [0x50#8])
      .errValidation 0#64 [] 1#3 0xE9#8 3 [0x50#8] = true := by decide

/-- T129 -/
theorem test_ralign_skips :
    reads (.ralign 4) (reader 0xBF#8 3#3 2 [0xFF#8, 0xFF#8, 0x77#8, 0x12#8])
      .ok 0x15#64 [] 0#3 0xFF#8 4 [0x77#8, 0x12#8] = true := by decide

/-- T131 -/
theorem test_ralign_zero :
    reads (.ralign 0) (reader 0xFF#8 0#3 4 [0x77#8])
      .errValidation 0#64 [] 0#3 0xFF#8 4 [0x77#8] = true := by decide

/-- T138 -/
theorem test_rbytes_elements :
    reads (.rbytes 4 7) (reader 0#8 0#3 0 [0x29#8, 0x1A#8, 0x41#8, 0xBC#8])
      .ok 2#64 [0x48#8, 0x69#8] 2#3 0x41#8 3 [0xBC#8] = true := by decide

/-- T142 -/
theorem test_rbytes_range9 :
    reads (.rbytes 4 9) (reader 0x41#8 2#3 3 [0xBC#8])
      .errValidation 0#64 [] 2#3 0x41#8 3 [0xBC#8] = true := by decide

/-- T151 -/
theorem test_rstr_elements :
    reads (.rstr) (reader 0#8 0#3 0 [0x00#8, 0x02#8, 0x41#8, 0x42#8, 0x00#8])
      .ok 2#64 [0x41#8, 0x42#8] 0#3 0x42#8 4 [0x00#8] = true := by decide

/-- T155 -/
theorem test_rstr_faulted :
    reads .rstr { State.reset with r := { Unpacker.initial with faulted := true, count := 13 } }
      .errState 0#64 [] 0#3 0#8 13 [] = true := by decide

/-- T152 -/
theorem test_rascii_elements :
    reads (.rascii) (reader 0x42#8 0#3 4 [0x00#8, 0x02#8, 0x83#8, 0x08#8, 0x00#8])
      .ok 2#64 [0x41#8, 0x42#8] 6#3 0x08#8 8 [0x00#8] = true := by decide

/-- T154 -/
theorem test_rascii_short :
    readFails .rascii (reader 0x08#8 0#3 8 [0x00#8, 0x40#8, 0x00#8, 0x03#8, 0x41#8]) 13 [] = true := by decide

/-! ## Witnesses: states and operands that meet the hypotheses of the statements -/

/-- A word of `PACKER`, WBYTE.U 7, 0x7F (30_encoding.md R106), and one of `UNPACKER`, RBYTE.S 8. -/
def wordW : CommandWord := 0x11010700000000000000007F#96

def wordR : CommandWord := 0x210008000000000000000000#96

/-- `s` with one event of the host. -/
def withEvent (e : HostEvent) (s : State) : State := { s with host := [e] }

/-- `s`, the host about to assert `rst` after `m` transfers of each engine. -/
def cutAt (m : Nat) (s : State) : State :=
  { s with w := { s.w with cut := some m }, r := { s.r with cut := some m } }

/-- A response that was not taken yet. -/
def pendingOk : Response := ⟨.ok, 0#64, []⟩

/-- Seven bits are pending in the writer: one more bit completes a byte. -/
def writer7 : State := writer 0xFE#8 7#3 3

/-- Seven bits of the reader's byte are consumed: one is pending. -/
def reader7 (src : List Byte) : State := reader 0x01#8 7#3 1 src

/-- Both counters one below the last value. -/
def nearFull : State :=
  { State.reset with
    w := { Packer.initial with cursor := 7#3, count := 18446744073709551614 }
    r := { Unpacker.initial with count := 18446744073709551614, source := [0xA5#8] } }

/-- Both counters at the last value. -/
def full : State :=
  { State.reset with
    w := { Packer.initial with cursor := 7#3, count := 18446744073709551615 }
    r := { Unpacker.initial with count := 18446744073709551615, source := [0xA5#8] } }

theorem witness_EncodeThenDecodeIsIdentity :
    Instr.wellFormed (.wbytes 31 8 4294967295) = true ∧ Instr.wellFormed (.walign (-2147483648)) = true ∧
      Instr.wellFormed (.rlong .signed 255) = true ∧
      Instr.wellFormed (.ralign (-9223372036854775808)) 64 = true ∧
      Instr.wellFormed (.ralign (-1)) 1 = true := by decide

theorem witness_DecodeFollowsTheOpcodeTable :
    decode wordW = .ok (.wbyte .unsigned 7 0x7F#8) ∧
      decode 0x1A0000000000000000000000#96 16 = .error .reservedOpcode := by decide

theorem witness_StepRunsTheDecodedCommand_packer :
    let s := withEvent (.packerCommand wordW [] (some 0)) State.reset
    s.host = .packerCommand wordW [] (some 0) :: [] ∧ s.w.response = none ∧
      decode wordW s.w.params.boundaryW = .ok (.wbyte .unsigned 7 0x7F#8) ∧
      Instr.engine (.wbyte .unsigned 7 0x7F#8) = .packer := by decide

theorem witness_StepRunsTheDecodedCommand_unpacker :
    let s := withEvent (.unpackerCommand wordR none) State.reset
    s.host = .unpackerCommand wordR none :: [] ∧ s.r.response = none ∧
      decode wordR s.r.params.boundaryW = .ok (.rbyte .signed 8) ∧
      Instr.engine (.rbyte .signed 8) = .unpacker := by decide

/-- T170: exactly the two payload bytes of the illegal word are at hand. -/
theorem witness_IllegalWordIsAnsweredValidationError_packer :
    let w : CommandWord := 0x170104080000000000000002#96
    let s := withEvent (.packerCommand w [0x02#8] none) (withPayload [0x01#8] State.reset)
    s.host = .packerCommand w [0x02#8] none :: [] ∧ s.w.response = none ∧
      (∀ r ∈ opcodeTableWrites, w &&& r.mask ≠ r.pattern) ∧
      2 = (if w.extractLsb' 88 8 = 0x17#8 ∨ w.extractLsb' 88 8 = 0x18#8 ∨
        w.extractLsb' 88 8 = 0x19#8 then (w.extractLsb' 0 32).toNat else 0) ∧
      2 ≤ (s.w.payload ++ [0x02#8]).length := by decide

/-- T159: a reserved opcode, no payload. -/
theorem witness_IllegalWordIsAnsweredValidationError_noPayload :
    let w : CommandWord := 0#96
    let s := withEvent (.packerCommand w [] none) State.reset
    s.host = .packerCommand w [] none :: [] ∧ s.w.response = none ∧
      (∀ r ∈ opcodeTableWrites, w &&& r.mask ≠ r.pattern) ∧
      0 = (if w.extractLsb' 88 8 = 0x17#8 ∨ w.extractLsb' 88 8 = 0x18#8 ∨
        w.extractLsb' 88 8 = 0x19#8 then (w.extractLsb' 0 32).toNat else 0) := by decide

/-- T174: a command of the writer on the reader's port. -/
theorem witness_IllegalWordIsAnsweredValidationError_unpacker :
    let s := withEvent (.unpackerCommand wordW none) State.reset
    s.host = .unpackerCommand wordW none :: [] ∧ s.r.response = none ∧
      ∀ r ∈ opcodeTableReads, wordW &&& r.mask ≠ r.pattern := by decide

theorem witness_BusyEngineRefusesACommand :
    let s : State :=
      { State.reset with
        w := { Packer.initial with response := some pendingOk }
        host := [.packerCommand wordW [] none] }
    let s' : State :=
      { State.reset with
        r := { Unpacker.initial with response := some pendingOk }
        host := [.unpackerCommand wordR none] }
    s.host = .packerCommand wordW [] none :: [] ∧ s.w.response = some pendingOk ∧
      s'.host = .unpackerCommand wordR none :: [] ∧ s'.r.response = some pendingOk := by decide

theorem witness_HostEventsChangeWhatTheyName :
    (withEvent (.bound .packer false) State.reset).host = .bound .packer false :: [] ∧
      (withEvent (.bound .unpacker true) State.reset).host = .bound .unpacker true :: [] ∧
      (withEvent (.takeResponse .packer) State.reset).host = .takeResponse .packer :: [] ∧
      (withEvent (.takeResponse .unpacker) State.reset).host = .takeResponse .unpacker :: [] ∧
      (withEvent (.attachSource [0xA5#8]) State.reset).host = .attachSource [0xA5#8] :: [] ∧
      State.reset.host = [] := by decide

theorem witness_ResetGivesTheStatedValues :
    (withEvent (.reset .packer) writer7).host = .reset .packer :: [] ∧
      (withEvent (.reset .unpacker) (reader7 [])).host = .reset .unpacker :: [] := by decide

/-- A command as the first event after reset. -/
theorem witness_StepKeepsTheInvariant :
    let s := withEvent (.packerCommand 0x100000000000000000000001#96 [] none) State.reset
    s.inv = true ∧ step s = .next (after (step s) s) := ⟨by decide, rfl⟩

theorem witness_OnlyResetClearsFaulted :
    let s : State := { State.reset with w := { Packer.initial with faulted := true } }
    let a := withEvent (.reset .packer) s
    let b := withEvent (.packerCommand wordW [] (some 0)) s
    (step a = .next (after (step a) a) ∧ a.w.faulted = true ∧
        (after (step a) a).w.faulted = false) ∧
      step b = .next (after (step b) b) ∧ b.w.faulted = true ∧
        (after (step b) b).w.faulted = false := ⟨⟨rfl, rfl, rfl⟩, rfl, rfl, rfl⟩

theorem witness_OnlyResetClearsFaulted_unpacker :
    let s : State := { State.reset with r := { Unpacker.initial with faulted := true } }
    let a := withEvent (.reset .unpacker) s
    let b := withEvent (.unpackerCommand wordR (some 0)) s
    (step a = .next (after (step a) a) ∧ a.r.faulted = true ∧
        (after (step a) a).r.faulted = false) ∧
      step b = .next (after (step b) b) ∧ b.r.faulted = true ∧
        (after (step b) b).r.faulted = false := ⟨⟨rfl, rfl, rfl⟩, rfl, rfl, rfl⟩

/-- `rst` before the first transfer, between two, and after the last, of WSHORT.S 16 at cursor 7. -/
theorem witness_ResetDuringACommandAbandonsIt_packer (m : Nat) (h : m ∈ [0, 1, 2, 5]) :
    let i := Instr.wshort .signed 16 0x8001#16
    let s := cutAt m writer7
    let bits := s.w.commandBits i (s.w.payload.take i.payloadLength)
    let k := min m (s.w.puts bits.length)
    s.legal i = true ∧ i.engine = .packer ∧ s.w.cut = some m ∧ s.w.usable = true ∧
      i.payloadLength ≤ s.w.payload.length ∧ s.w.answers.okFor k = true ∧
      s.w.count + k < 2 ^ s.w.params.cntW := by
  revert m; decide

theorem witness_ResetDuringACommandAbandonsIt_unpacker (m : Nat) (h : m ∈ [0, 1, 2, 5]) :
    let i := Instr.rshort .signed 16
    let s := cutAt m (reader7 [0xAB#8, 0xCD#8])
    let k := min m (s.r.gets (s.r.commandLength i))
    s.legal i = true ∧ i.engine = .unpacker ∧ s.r.cut = some m ∧ s.r.usable = true ∧
      k ≤ s.r.source.length ∧ s.r.answers.okFor k = true ∧
      s.r.count + k < 2 ^ s.r.params.cntW := by
  revert m; decide

/-- The counter at the last value that can still be incremented; a refusal. -/
theorem witness_SinkPutAppendsAcceptedByte :
    let o : Oracle := ⟨[], .fail⟩
    (nearFull.w.cut = none ∧ nearFull.w.answers.next = (.ok, nearFull.w.answers) ∧
      nearFull.w.count + 1 < 2 ^ nearFull.w.params.cntW) ∧
      (sinkAnswers [] full).w.cut = none ∧ (sinkAnswers [] full).w.answers.next = (.fail, o) := by
  decide

theorem witness_SrcGetConsumesDeliveredByte :
    let o : Oracle := ⟨[], .fail⟩
    (nearFull.r.cut = none ∧ nearFull.r.answers.next = (.ok, nearFull.r.answers) ∧
      nearFull.r.source = 0xA5#8 :: [] ∧ nearFull.r.count + 1 < 2 ^ nearFull.r.params.cntW) ∧
      (State.reset.r.cut = none ∧ State.reset.r.answers.next = (.ok, State.reset.r.answers) ∧
        State.reset.r.source = []) ∧
      (sourceAnswers [] full).r.cut = none ∧ (sourceAnswers [] full).r.answers.next = (.fail, o) := by
  decide

theorem witness_ReaderNeverLooksAhead :
    let i := Instr.rshort .unsigned 9
    let s := reader7 [0xAB#8, 0xCD#8]
    i.engine = .unpacker ∧ s.r.cut = none ∧ exec i s = .next (after (exec i s) s) ∧
      (after (exec i s) s).r.response ≠ some ⟨.errIo, 0#64, []⟩ := by
  refine ⟨rfl, rfl, rfl, by decide⟩

theorem witness_WriteProceduresEmitBitByBit :
    (1 ≤ [true].length ∧ (List.replicate 8 true).length ≤ 8 ∧ (List.replicate 16 true).length ≤ 16) ∧
      (List.replicate 31 true).length ≤ 31 ∧ (List.replicate 63 true).length ≤ 63 ∧
      (List.replicate 64 true).length ≤ Native.long.width := by decide

theorem witness_WritesFollowThePositionLaw :
    let i := Instr.walign 4
    let s := writer 0xA0#8 3#3 1
    i.engine = .packer ∧ s.w.cut = none ∧ i.wellFormed s.w.params.boundaryW = true ∧
      s.w.params.boundaryW ≤ 62 ∧ exec i s = .next (after (exec i s) s) ∧
      (after (exec i s) s).w.response = some ⟨.ok, 0x15#64, []⟩ := by
  refine ⟨rfl, rfl, by decide, by decide, rfl, by decide⟩

theorem witness_WritesFollowThePositionLaw_sequence :
    let i := Instr.wbytes 4 7 2
    let s := withPayload [0x48#8, 0x69#8] (writer 0#8 0#3 0)
    i.engine = .packer ∧ s.w.cut = none ∧ i.wellFormed s.w.params.boundaryW = true ∧
      s.w.params.boundaryW ≤ 62 ∧ exec i s = .next (after (exec i s) s) ∧
      (after (exec i s) s).w.response = some ⟨.ok, 0#64, []⟩ := by
  refine ⟨rfl, rfl, by decide, by decide, rfl, by decide⟩

/-- The bit that completes a byte, at the last count that leaves room. -/
theorem witness_WboolWritesItsBit :
    writer7.w.ready (writer7.w.puts 1) = true ∧ nearFull.w.ready (nearFull.w.puts 1) = true := by
  decide

/-- The smallest and the largest size of each width. -/
theorem witness_NumericWritesWriteTheirField (n : Native) :
    legalSize n .unsigned 1 = true ∧ writer7.w.ready (writer7.w.puts 1) = true ∧
      legalSize n .unsigned (n.width - 1) = true ∧
      writer7.w.ready (writer7.w.puts (n.width - 1)) = true ∧
      legalSize n .signed 2 = true ∧ writer7.w.ready (writer7.w.puts 2) = true ∧
      legalSize n .signed n.width = true ∧ writer7.w.ready (writer7.w.puts n.width) = true := by
  cases n <;> decide

theorem witness_WcharWritesItsField :
    1 ≤ 1 ∧ 1 ≤ 16 ∧ writer7.w.ready (writer7.w.puts 1) = true ∧ 16 ≤ 16 ∧
      writer7.w.ready (writer7.w.puts 16) = true := by decide

/-- An aligned and an unaligned writer, and boundaries at and above the largest of 32 bits, already met. -/
theorem witness_WalignPadsWithZeros :
    ((1 : Int) ≤ 1 ∧ (1 : Int) < 2 ^ 61 ∧ writer7.w.ready (writer7.w.puts (writer7.w.padding 1)) = true) ∧
      ((1 : Int) ≤ 2147483647 ∧ (2147483647 : Int) < 2 ^ 61 ∧
        State.reset.w.ready (State.reset.w.puts (State.reset.w.padding 2147483647)) = true) ∧
      (1 : Int) ≤ 2 ^ 62 ∧
      State.reset.w.ready (State.reset.w.puts (State.reset.w.padding (2 ^ 62))) = true := by decide

theorem witness_AlignIsIdempotent :
    let s := sinkAnswers [] (writer 0#8 0#3 6)
    let s' := sourceAnswers [] (reader 0xFF#8 0#3 6 [])
    (1 : Int) ≤ 3 ∧ (s.w.usable = true ∧ s.w.cut = none ∧ s.w.cursor = 0#3 ∧ s.w.count % 3 = 0) ∧
      s'.r.usable = true ∧ s'.r.cut = none ∧ s'.r.cursor = 0#3 ∧ s'.r.count % 3 = 0 := by decide

theorem witness_SignedAndUnsignedWritesAgree (n : Native) :
    2 ≤ 2 ∧ 2 < n.width ∧ 2 ≤ n.width - 1 ∧ n.width - 1 < n.width := by
  cases n <;> decide

theorem witness_WritesReadNeitherSinkNorHighBits :
    (∀ j < 3, (0xFFFFFFFFFFFFFFFD#64).getLsbD j = (0x5#64).getLsbD j) ∧
      (∀ j < 16, (0xFFFF#16).getLsbD j = (0xFFFF#16).getLsbD j) ∧
      Instr.engine (.wbool true) = .packer ∧
      exec (.wbool true) writer7 = .next (after (exec (.wbool true) writer7) writer7) := by
  refine ⟨by decide, by decide, rfl, rfl⟩

theorem witness_ReadProceduresTakeBitByBit :
    1 ≤ 1 ∧ 1 ≤ 8 ∧ 8 ≤ 8 ∧ 16 ≤ 16 ∧ 31 ≤ 31 ∧ 63 ≤ 63 ∧ 64 ≤ Native.long.width := by decide

theorem witness_ReadsFollowThePositionLaw :
    let i := Instr.ralign 4
    let s := reader 0xBF#8 3#3 2 [0xFF#8, 0xFF#8, 0x77#8]
    i.engine = .unpacker ∧ s.r.cut = none ∧ i.wellFormed s.r.params.boundaryW = true ∧
      s.r.params.boundaryW ≤ 62 ∧ exec i s = .next (after (exec i s) s) ∧
      (after (exec i s) s).r.response = some ⟨.ok, 0x15#64, []⟩ := by
  refine ⟨rfl, rfl, by decide, by decide, rfl, by decide⟩

theorem witness_ReadsFollowThePositionLaw_sequence :
    let i := Instr.rbytes 4 7
    let s := reader 0#8 0#3 0 [0x29#8, 0x1A#8, 0x41#8]
    i.engine = .unpacker ∧ s.r.cut = none ∧ i.wellFormed s.r.params.boundaryW = true ∧
      s.r.params.boundaryW ≤ 62 ∧ exec i s = .next (after (exec i s) s) ∧
      (after (exec i s) s).r.response = some ⟨.ok, 2#64, [0x48#8, 0x69#8]⟩ := by
  refine ⟨rfl, rfl, by decide, by decide, rfl, by decide⟩

/-- The last pending bit with an empty source, and the bit that pulls a byte. -/
theorem witness_RboolReturnsTheNextBit :
    (reader7 []).r.ready ((reader7 []).r.gets 1) = true ∧ nearFull.r.ready (nearFull.r.gets 1) = true := by
  decide

/-- The smallest and the largest size of each width. -/
theorem witness_NumericReadsReturnTheirField (n : Native) :
    let s := reader7 [1#8, 2#8, 3#8, 4#8, 5#8, 6#8, 7#8, 8#8]
    legalSize n .unsigned 1 = true ∧ s.r.ready (s.r.gets 1) = true ∧
      legalSize n .unsigned (n.width - 1) = true ∧ s.r.ready (s.r.gets (n.width - 1)) = true ∧
      legalSize n .signed 2 = true ∧ s.r.ready (s.r.gets 2) = true ∧
      legalSize n .signed n.width = true ∧ s.r.ready (s.r.gets n.width) = true := by
  cases n <;> decide

theorem witness_RcharReturnsItsField :
    1 ≤ 1 ∧ 1 ≤ 16 ∧ (reader7 []).r.ready ((reader7 []).r.gets 1) = true ∧ 16 ≤ 16 ∧
      (reader7 [1#8, 2#8]).r.ready ((reader7 [1#8, 2#8]).r.gets 16) = true := by decide

theorem witness_RalignDiscardsToTheBoundary :
    ((1 : Int) ≤ 1 ∧ (1 : Int) < 2 ^ 61 ∧
      (reader7 []).r.ready ((reader7 []).r.gets ((reader7 []).r.padding 1)) = true) ∧
      ((1 : Int) ≤ 2147483647 ∧ (2147483647 : Int) < 2 ^ 61 ∧
        State.reset.r.ready (State.reset.r.gets (State.reset.r.padding 2147483647)) = true) ∧
      (1 : Int) ≤ 2 ^ 62 ∧
      State.reset.r.ready (State.reset.r.gets (State.reset.r.padding (2 ^ 62))) = true := by decide

theorem witness_ReadsOnlyConsumeTheSource :
    Instr.engine .rbool = .unpacker ∧
      exec .rbool (reader7 []) = .next (after (exec .rbool (reader7 [])) State.reset) :=
  ⟨rfl, rfl⟩

/-- RBOOL from reset moves the reader by one bit, though `R.count` is then 1 and `R.cursor` 1 (T78). -/
theorem test_position_rbool :
    let s := reader 0#8 0#3 0 [0xBF#8]
    s.r.position = 0 ∧ (after (exec .rbool s) s).r.position = 1 ∧
      (after (exec .rbool s) s).r.count = 1 ∧ (after (exec .rbool s) s).r.cursor = 1#3 := by decide

theorem witness_StreamPositionAdvancesByTheBits :
    let i := Instr.wshort .unsigned 9 0x1FF#16
    let j := Instr.rshort .unsigned 9
    let s := reader7 [0xAB#8, 0xCD#8]
    (exec i s = .next (after (exec i s) s) ∧ i.engine = .packer ∧ s.w.cut = none ∧
      (after (exec i s) s).w.response = some ⟨.ok, 0#64, []⟩) ∧
      exec j s = .next (after (exec j s) s) ∧ j.engine = .unpacker ∧ s.r.cut = none ∧
      (after (exec j s) s).r.response = some ⟨.ok, 0x1AB#64, []⟩ := by
  refine ⟨⟨rfl, rfl, rfl, by decide⟩, rfl, rfl, rfl, by decide⟩

/-- The longest sequence for its scale, and the smallest and largest scale and range. -/
theorem witness_WbytesWritesCountAndElements :
    let s := withPayload [0x01#8, 0x02#8, 0x03#8] writer7
    (1 ≤ 2 ∧ 2 ≤ 31 ∧ 1 ≤ 8 ∧ 8 ≤ 8 ∧ 3 < 2 ^ 2 ∧ 3 ≤ s.w.payload.length ∧
      s.w.ready (s.w.puts (sequenceBits 2 8 (s.w.payload.take 3)).length) = true) ∧
      (1 ≤ 31 ∧ 31 ≤ 31 ∧ 1 ≤ 1 ∧ 1 < 2 ^ 31 ∧
        s.w.ready (s.w.puts (sequenceBits 31 1 (s.w.payload.take 1)).length) = true) ∧
      s.w.ready (s.w.puts (sequenceBits 1 8 (s.w.payload.take 0)).length) = true := by decide

theorem witness_WstrAndWasciiWriteTheConfiguredSequence :
    let s := withPayload [0x41#8, 0x42#8] writer7
    let d := s.w.payload.take 2
    s.w.params.wf = true ∧ 2 < 2 ^ s.w.params.strScale ∧ 2 ≤ s.w.payload.length ∧
      s.w.ready (s.w.puts (sequenceBits s.w.params.strScale s.w.params.strRange d).length) = true ∧
      s.w.ready (s.w.puts (sequenceBits s.w.params.strScale s.w.params.asciiRange d).length) = true := by
  decide

theorem witness_RbytesReturnsCountAndElements :
    let s := reader 0#8 0#3 0 [0x29#8, 0x1A#8, 0x41#8]
    (1 ≤ 4 ∧ 4 ≤ 31 ∧ 1 ≤ 7 ∧ 7 ≤ 8 ∧ s.r.ready (s.r.gets (s.r.sequenceLength 4 7)) = true) ∧
      1 ≤ 1 ∧ 8 ≤ 8 ∧ s.r.ready (s.r.gets (s.r.sequenceLength 1 8)) = true := by decide

theorem witness_RstrAndRasciiReadTheConfiguredSequence :
    let s := reader 0#8 0#3 0 [0x00#8, 0x02#8, 0x41#8, 0x42#8]
    s.r.params.wf = true ∧ 16 = s.r.params.strScale ∧ 8 = s.r.params.strRange ∧
      s.r.ready (s.r.gets (s.r.sequenceLength 16 8)) = true ∧ 7 = s.r.params.asciiRange ∧
      s.r.ready (s.r.gets (s.r.sequenceLength 16 7)) = true := by decide

/-- One below and one above the legal operands, on an engine that is not bound, with the payload at hand. -/
theorem witness_ValidationErrorChangesNothing :
    let s : State := { State.reset with w := { Packer.initial with bound := false, payload := [1#8, 2#8] } }
    let i := Instr.wbytes 1 8 2
    let j := Instr.rint .unsigned 32
    (s.legal i = false ∧ i.engine = .packer ∧ s.w.cut = none ∧ i.payloadLength ≤ s.w.payload.length) ∧
      (s.legal j = false ∧ j.engine = .unpacker ∧ s.r.cut = none) ∧
      s.legal (.walign 0) = false ∧ s.legal (.rchar 17) = false := by decide

/-- The bounds of each width and signedness: the sizes just outside them, and the bounds themselves. -/
theorem witness_NumericSizesAreBoundedByTheTable :
    State.reset.w.cut = none ∧ State.reset.r.cut = none ∧
      [legalSize .byte .unsigned 0, legalSize .byte .unsigned 1, legalSize .byte .unsigned 7,
        legalSize .byte .unsigned 8, legalSize .byte .signed 1, legalSize .byte .signed 2,
        legalSize .byte .signed 8, legalSize .byte .signed 9] =
        [false, true, true, false, false, true, true, false] := by decide

theorem witness_CharSizesAreBounded :
    State.reset.w.cut = none ∧ State.reset.r.cut = none ∧ legalChar 0 = false ∧
      legalChar 1 = true ∧ legalChar 16 = true ∧ legalChar 17 = false := by decide

theorem witness_BoundariesArePositive :
    State.reset.w.cut = none ∧ State.reset.r.cut = none ∧ legalBoundary 0 = false ∧
      legalBoundary 1 = true ∧ legalBoundary (-2147483648) = false := by decide

theorem witness_SequenceOperandsAreBounded :
    let s := withPayload [1#8, 2#8] State.reset
    s.w.cut = none ∧ 2 ≤ s.w.payload.length ∧ s.r.cut = none ∧ legalSequence 1 8 2 = false ∧
      legalSequence 2 8 2 = true ∧ legalSequence 32 8 2 = false ∧ legalSequence 31 9 2 = false ∧
      legalSequence 31 0 2 = false := by decide

theorem witness_StateErrorChangesNothing :
    let s : State :=
      { State.reset with
        w := { Packer.initial with bound := false, payload := [1#8] }
        r := { Unpacker.initial with faulted := true } }
    (s.legal (.wbytes 8 8 1) = true ∧ Instr.engine (.wbytes 8 8 1) = .packer ∧
      (s.w.bound = false ∨ s.w.faulted = true) ∧ s.w.cut = none ∧ 1 ≤ s.w.payload.length) ∧
      s.legal (.ralign 1) = true ∧ Instr.engine (.ralign 1) = .unpacker ∧
      (s.r.bound = false ∨ s.r.faulted = true) ∧ s.r.cut = none := by decide

/-- The first byte of a command is refused (`k = 0`), or its last (`k = 1`). -/
theorem witness_RefusedByteLatchesThePacker (k : Nat) (h : k ∈ [0, 1]) :
    let s := sinkAnswers (List.replicate k .ok) writer7
    let i := Instr.wshort .unsigned 9 0x1FF#16
    let bits := s.w.commandBits i (s.w.payload.take i.payloadLength)
    i.engine = .packer ∧ s.legal i = true ∧ s.w.usable = true ∧ s.w.cut = none ∧
      i.payloadLength ≤ s.w.payload.length ∧ k < s.w.puts bits.length ∧
      s.w.answers.okFor k = true ∧ (s.w.answers.advance k).next.1 = .fail ∧
      s.w.count + k < 2 ^ s.w.params.cntW := by
  revert k; decide

/-- The source fails, or it has no more. -/
theorem witness_FailedPullLatchesTheUnpacker :
    let i := Instr.rshort .unsigned 12
    let s := sourceAnswers [.ok] (reader 0#8 0#3 0 [0xA5#8, 0x5A#8])
    let s' := reader 0#8 0#3 0 [0xA5#8]
    (i.engine = .unpacker ∧ s.legal i = true ∧ s.r.usable = true ∧ s.r.cut = none ∧
      1 < s.r.gets (s.r.commandLength i) ∧ 1 ≤ s.r.source.length ∧ s.r.answers.okFor 1 = true ∧
      (s.r.answers.advance 1).next.1 = .fail ∧ s.r.count + 1 < 2 ^ s.r.params.cntW) ∧
      s'.legal i = true ∧ s'.r.usable = true ∧ s'.r.cut = none ∧
      1 < s'.r.gets (s'.r.commandLength i) ∧ 1 ≤ s'.r.source.length ∧ s'.r.answers.okFor 1 = true ∧
      ((s'.r.answers.advance 1).next.1 = .ok ∧ 1 = s'.r.source.length) ∧
      s'.r.count + 1 < 2 ^ s'.r.params.cntW := by decide

theorem witness_EveryCommandIsAnsweredOnce :
    let s := reader 0#8 0#3 0 [0x29#8, 0x1A#8, 0x41#8]
    (exec (.walign 1) s = .next (after (exec (.walign 1) s) s) ∧
      Instr.engine (.walign 1) = .packer ∧ s.w.cut = none) ∧
      exec (.rbytes 4 7) s = .next (after (exec (.rbytes 4 7) s) s) ∧
      Instr.engine (.rbytes 4 7) = .unpacker ∧ s.r.cut = none :=
  ⟨⟨rfl, rfl, rfl⟩, rfl, rfl, rfl⟩

/-- A command that completes; one that ends ERR_IO is `witness_RefusedByteLatchesThePacker`. -/
theorem witness_PackerCommandFrame :
    let s := withPayload [0x01#8, 0x02#8] writer7
    Instr.engine (.wbytes 1 8 1) = .packer ∧ s.w.cut = none ∧
      exec (.wbytes 1 8 1) s = .next (after (exec (.wbytes 1 8 1) s) s) ∧
      (after (exec (.wbytes 1 8 1) s) s).w.response ≠ some ⟨.errIo, 0#64, []⟩ := by
  refine ⟨rfl, rfl, rfl, by decide⟩

theorem witness_UnpackerCommandFrame :
    let s := reader7 [0xAB#8, 0xCD#8]
    Instr.engine (.rchar 9) = .unpacker ∧ s.r.cut = none ∧
      exec (.rchar 9) s = .next (after (exec (.rchar 9) s) s) ∧
      (after (exec (.rchar 9) s) s).r.response ≠ some ⟨.errIo, 0#64, []⟩ := by
  refine ⟨rfl, rfl, rfl, by decide⟩

/-- The environment's second answer never comes: the reader's first and last request with bytes still in
`SRC`. -/
theorem witness_SilentEnvironmentHangsTheCommand_bytesLeft :
    let j := Instr.rshort .unsigned 9
    let s : State :=
      { State.reset with r := { (reader 0#8 0#3 0 [1#8, 2#8]).r with answers := ⟨[], .never⟩ } }
    let s' : State :=
      { State.reset with r := { (reader 0#8 0#3 0 [1#8, 2#8]).r with answers := ⟨[.ok], .never⟩ } }
    (s.legal j = true ∧ j.engine = .unpacker ∧ s.r.usable = true ∧ s.r.cut = none ∧
      0 < s.r.gets (s.r.commandLength j) ∧ 0 < s.r.source.length ∧ s.r.answers.okFor 0 = true ∧
      (s.r.answers.advance 0).next.1 = .never ∧ s.r.count + 0 < 2 ^ s.r.params.cntW) ∧
      s'.legal j = true ∧ s'.r.usable = true ∧ s'.r.cut = none ∧
      1 < s'.r.gets (s'.r.commandLength j) ∧ 1 < s'.r.source.length ∧ s'.r.answers.okFor 1 = true ∧
      (s'.r.answers.advance 1).next.1 = .never ∧ s'.r.count + 1 < 2 ^ s'.r.params.cntW := by decide

/-- The environment's second answer never comes; the reader's request is one on an empty `SRC` (log 19). -/
theorem witness_SilentEnvironmentHangsTheCommand :
    let i := Instr.wshort .unsigned 9 0x1FF#16
    let j := Instr.rshort .unsigned 9
    let s : State :=
      { State.reset with
        w := { writer7.w with answers := ⟨[.ok], .never⟩ }
        r := { (reader 0#8 0#3 0 [1#8]).r with answers := ⟨[.ok], .never⟩ } }
    let bits := s.w.commandBits i (s.w.payload.take i.payloadLength)
    (s.legal i = true ∧ i.engine = .packer ∧ s.w.usable = true ∧ s.w.cut = none ∧
      i.payloadLength ≤ s.w.payload.length ∧ 1 < s.w.puts bits.length ∧
      s.w.answers.okFor 1 = true ∧ (s.w.answers.advance 1).next.1 = .never ∧
      s.w.count + 1 < 2 ^ s.w.params.cntW) ∧
      s.legal j = true ∧ j.engine = .unpacker ∧ s.r.usable = true ∧ s.r.cut = none ∧
      1 < s.r.gets (s.r.commandLength j) ∧ 1 ≤ s.r.source.length ∧ s.r.answers.okFor 1 = true ∧
      (s.r.answers.advance 1).next.1 = .never ∧ s.r.count + 1 < 2 ^ s.r.params.cntW := by decide

/-- The counters at `2^64 - 1`, a transfer asked for. -/
theorem witness_FullCounterRefusesTheCommand :
    let i := Instr.wbool true
    let bits := full.w.commandBits i (full.w.payload.take i.payloadLength)
    (full.legal i = true ∧ i.engine = .packer ∧ full.w.usable = true ∧ full.w.cut = none ∧
      i.payloadLength ≤ full.w.payload.length ∧ 0 < full.w.puts bits.length ∧
      full.w.answers.okFor (0 + 1) = true ∧ full.w.count + 0 = 2 ^ full.w.params.cntW - 1) ∧
      full.legal .rbool = true ∧ Instr.engine .rbool = .unpacker ∧ full.r.usable = true ∧
      full.r.cut = none ∧ 0 < full.r.gets (full.r.commandLength .rbool) ∧
      0 < full.r.source.length ∧ full.r.answers.okFor (0 + 1) = true ∧
      full.r.count + 0 = 2 ^ full.r.params.cntW - 1 := by decide

theorem witness_MissingPayloadHangsTheCommand :
    let s := withPayload [0x01#8] State.reset
    s.w.payload.length < Instr.payloadLength (.wstr 2) ∧ s.w.cut = none := by decide

theorem witness_TransfersAreBoundedByOperands :
    let s := withPayload [0x01#8] (reader7 [1#8, 2#8])
    (exec (.wbool true) s = .next (after (exec (.wbool true) s) s) ∧
      exec .rbool s = .next (after (exec .rbool s) s) ∧
      (Native.byte, 1) ∈ [(Native.byte, 1), (.short, 2), (.int, 4), (.long, 8)] ∧
      exec (Native.write .byte .signed 8 0x80#64) s =
        .next (after (exec (Native.write .byte .signed 8 0x80#64) s) s) ∧
      exec (Native.read .byte .signed 8) s = .next (after (exec (Native.read .byte .signed 8) s) s)) ∧
      (exec (.wchar 16 0xFFFF#16) s = .next (after (exec (.wchar 16 0xFFFF#16) s) s) ∧
        exec (.rchar 16) s = .next (after (exec (.rchar 16) s) s) ∧
        (1 : Int) ≤ 1 ∧ exec (.walign 1) s = .next (after (exec (.walign 1) s) s) ∧
        exec (.ralign 1) s = .next (after (exec (.ralign 1) s) s)) ∧
      exec (.wbytes 1 8 1) s = .next (after (exec (.wbytes 1 8 1) s) s) ∧
      exec (.rbytes 1 8) s = .next (after (exec (.rbytes 1 8) s) s) ∧
      (after (exec (.rbytes 1 8) s) s).r.response = some ⟨.ok, 1#64, [1#8]⟩ := by
  refine ⟨⟨rfl, rfl, by decide, rfl, rfl⟩, ⟨rfl, rfl, by decide, rfl, rfl⟩, rfl, rfl, by decide⟩

/-- From cursor 3, a signed field of the full width of a byte. -/
theorem witness_NumericFieldRoundTrips :
    let s := writer 0xA0#8 3#3 1
    let i := Native.write .byte .signed 8 0x80#64
    let t := after (exec i s) s
    let a := after (exec (.walign 1) t) t
    let q := (reader 0xB0#8 3#3 1 [0x00#8]).r
    legalSize .byte .signed 8 = true ∧ s.w.cut = none ∧ exec i s = .next t ∧
      t.w.response = some ⟨.ok, 0#64, []⟩ ∧ exec (.walign 1) t = .next a ∧
      a.w.response = some ⟨.ok, 5#64, []⟩ ∧ a.w.sink = s.w.sink ++ [0xB0#8, 0x00#8] ∧
      q.AtMirror s.w ([0xB0#8, 0x00#8] ++ []) ∧ q.ready (q.gets 8) = true := by
  refine ⟨by decide, rfl, rfl, by decide, rfl, by decide, by decide, ⟨rfl, rfl⟩, by decide⟩

/-- From cursor 0, bytes with bits above `range`. -/
theorem witness_ByteSequenceRoundTrips :
    let s := withPayload [0xC8#8, 0x69#8] (writer 0#8 0#3 0)
    let t := after (exec (.wbytes 4 7 2) s) s
    let a := after (exec (.walign 1) t) t
    let q := (reader 0#8 0#3 0 [0x29#8, 0x1A#8, 0x40#8]).r
    s.w.cut = none ∧ 2 ≤ s.w.payload.length ∧ exec (.wbytes 4 7 2) s = .next t ∧
      t.w.response = some ⟨.ok, 0#64, []⟩ ∧ exec (.walign 1) t = .next a ∧
      a.w.response = some ⟨.ok, 6#64, []⟩ ∧ a.w.sink = s.w.sink ++ [0x29#8, 0x1A#8, 0x40#8] ∧
      q.AtMirror s.w ([0x29#8, 0x1A#8, 0x40#8] ++ []) ∧
      q.ready (q.gets (4 + 2 * 7)) = true := by
  refine ⟨rfl, by decide, rfl, by decide, rfl, by decide, by decide, ⟨rfl, rfl⟩, by decide⟩

end Sys2Proof.Tests
end

section
/-! PROOFS. Runs, cursors and oracles: the laws that the proofs about both engines share. -/

namespace Sys2Proof.Machine

theorem Run.bind_congr {σ α β : Type} {x : Run σ α} {f g : α → σ → Run σ β}
    (h : ∀ a s, x = .done a s → f a s = g a s) : x.bind f = x.bind g := by
  cases x with
  | done a s => exact h a s rfl
  | halted k s => rfl

@[simp] theorem Run.bind_return {σ α : Type} (x : Run σ α) : (x.bind fun a s => .done a s) = x := by
  cases x <;> rfl

theorem cursor_pos {c : BitVec 3} : 0 < c.toNat ↔ c ≠ 0#3 := by
  rw [Nat.pos_iff_ne_zero, Ne, Ne, ← BitVec.toNat_inj]; rfl

theorem cursor_ofNat {n : Nat} (h : n < 8) : (BitVec.ofNat 3 n).toNat = n :=
  Nat.mod_eq_of_lt h

theorem Oracle.advance_add (m n : Nat) (o : Oracle) :
    o.advance (m + n) = (o.advance m).advance n := by
  induction m generalizing o with
  | zero => simp [Oracle.advance]
  | succ m ih => simp [Nat.succ_add, Oracle.advance, ih]

theorem Oracle.okFor_add (m n : Nat) (o : Oracle) :
    o.okFor (m + n) = (o.okFor m && (o.advance m).okFor n) := by
  induction m generalizing o with
  | zero => simp [Oracle.okFor, Oracle.advance]
  | succ m ih => simp [Nat.succ_add, Oracle.okFor, Oracle.advance, ih, Bool.and_assoc]

@[simp] theorem Oracle.okFor_one (o : Oracle) : o.okFor 1 = true ↔ o.next.1 = .ok := by
  simp [Oracle.okFor]

end Sys2Proof.Machine
end


section
/-! PROOFS. The two transfers, by what they return and by what the environment answers (20_memory.md
R52, R55). -/

namespace Sys2Proof.Machine

theorem Unpacker.srcGet_done {q q' : Unpacker} {b : Byte} (h : q.srcGet = .done b q') :
    ∃ rest, q.source = b :: rest ∧ q' = q.deliver b rest q.answers.next.2 := by
  rcases q.srcGet_cases with
    ⟨-, e⟩ | ⟨-, o, ⟨-, e⟩ | ⟨-, e⟩ | ⟨b', rest, ho, hs, ⟨-, e⟩ | ⟨-, e⟩⟩⟩ <;>
    rw [e] at h <;> cases h
  exact ⟨rest, hs, by rw [ho]⟩

theorem Packer.sinkPut_done {b : Byte} {p p' : Packer} (h : p.sinkPut b = .done () p') :
    p' = p.accept b p.answers.next.2 := by
  rcases p.sinkPut_cases b with ⟨-, e⟩ | ⟨-, o, ⟨-, e⟩ | ⟨-, e⟩ | ⟨ho, -, e⟩ | ⟨-, -, e⟩⟩ <;>
    rw [e] at h <;> cases h
  rw [ho]

/-- An answered offer is accepted when the counter has room; the model refuses it when it has not
(20_memory.md R52, 10_state.md R39). -/
theorem Packer.sinkPut_answered {p : Packer} (b : Byte) (hc : p.cut = none)
    (ha : p.answers.next.1 = .ok) :
    p.sinkPut b = if p.count + 1 < 2 ^ p.params.cntW then .done () (p.accept b p.answers.next.2)
      else .halted .overflow p := by
  obtain ⟨h, -⟩ | ⟨-, o, ⟨h, -⟩ | ⟨h, -⟩ | ⟨h, hr, e⟩ | ⟨h, hr, e⟩⟩ := p.sinkPut_cases b
  · rw [hc] at h; cases h
  · rw [h] at ha; cases ha
  · rw [h] at ha; cases ha
  · rw [e, if_pos hr, h]
  · rw [e, if_neg hr]

/-- An answered request is served when `SRC` holds a byte and the counter has room; the model refuses
it when the counter has not (20_memory.md R55, 10_state.md R39). -/
theorem Unpacker.srcGet_answered {q : Unpacker} {b : Byte} {rest : List Byte} (hc : q.cut = none)
    (ha : q.answers.next.1 = .ok) (hs : q.source = b :: rest) :
    q.srcGet = if q.count + 1 < 2 ^ q.params.cntW then .done b (q.deliver b rest q.answers.next.2)
      else .halted .overflow q := by
  obtain ⟨h, -⟩ | ⟨-, o, ⟨h, -⟩ | ⟨h | ⟨-, h⟩, -⟩ | ⟨b', rest', h, hs', ⟨hr, e⟩ | ⟨hr, e⟩⟩⟩ :=
    q.srcGet_cases
  · rw [hc] at h; cases h
  · rw [h] at ha; cases ha
  · rw [h] at ha; cases ha
  · rw [hs] at h; cases h
  · rw [hs] at hs'
    cases hs'
    rw [e, if_pos hr, h]
  · rw [e, if_neg hr]

theorem Packer.Sends.cut_none {p p' : Packer} (h : p.Sends p') : p'.cut = none ↔ p.cut = none := by
  rw [← Option.isNone_iff_eq_none, ← Option.isNone_iff_eq_none, ← Option.not_isSome,
    ← Option.not_isSome, h.cut]

theorem Unpacker.Pulls.cut_none {q q' : Unpacker} (h : q.Pulls q') :
    q'.cut = none ↔ q.cut = none := by
  rw [← Option.isNone_iff_eq_none, ← Option.isNone_iff_eq_none, ← Option.not_isSome,
    ← Option.not_isSome, h.cut]

end Sys2Proof.Machine
end


section
/-! PROOFS. The position law of the reader: what a reading leaves (42_bit_unpacker.md R174). -/

namespace Sys2Proof.Machine

theorem fieldBits_eight_cons (x : Byte) {c : Nat} (hc : c < 8) :
    (fieldBits x 8).drop c = x.getMsbD c :: (fieldBits x 8).drop (c + 1) := by
  rw [List.drop_eq_getElem_cons (by simpa using hc)]
  simp [fieldBits, BitVec.getMsbD, hc]

/-- The bits of a byte that are pending once one more was taken (10_state.md R26). -/
theorem Unpacker.pending_advance (q : Unpacker) :
    ({ q with cursor := BitVec.ofNat 3 (q.cursor.toNat + 1) } : Unpacker).pending =
      (fieldBits q.partialByte 8).drop (q.cursor.toNat + 1) := by
  have hlt := q.cursor.isLt
  unfold Unpacker.pending
  split
  · next h =>
    have : q.cursor.toNat + 1 = 8 := by
      have := congrArg BitVec.toNat h
      simp only [BitVec.toNat_ofNat] at this
      omega
    rw [this, List.drop_of_length_le (by simp)]
  · next h =>
    have := cursor_pos.mpr h
    simp only [BitVec.toNat_ofNat] at this ⊢
    rw [Nat.mod_eq_of_lt (by omega)]

/-- Taking one bit: the next one of `R.partial`, pulled first at cursor 0 (42 R161). -/
theorem rTake_one_done {q q' : Unpacker} {v : Bits} (h : rTake 1 q = .done v q') :
    (q.cursor ≠ 0#3 ∧ v = [q.partialByte.getMsbD q.cursor.toNat] ∧
      q' = { q with cursor := BitVec.ofNat 3 (q.cursor.toNat + 1) }) ∨
    ∃ b rest, q.cursor = 0#3 ∧ q.source = b :: rest ∧ v = [b.getMsbD 0] ∧
      q' = { q.deliver b rest q.answers.next.2 with cursor := 1#3 } := by
  by_cases hc : q.cursor = 0#3
  · rw [rTake, if_pos hc] at h
    obtain ⟨b, q₁, hg, hd⟩ := Run.bind_eq_done h
    obtain ⟨rest, hs, rfl⟩ := Unpacker.srcGet_done hg
    simp only [rDeliver, Unpacker.deliver_cursor, hc] at hd
    cases hd
    exact .inr ⟨b, rest, hc, hs, rfl, rfl⟩
  · rw [rTake, if_neg hc] at h
    cases h
    exact .inl ⟨hc, rfl, rfl⟩

theorem rTake_one_stream {q q' : Unpacker} {v : Bits} (h : rTake 1 q = .done v q') :
    v.length = 1 ∧ q.stream = v ++ q'.stream := by
  obtain ⟨hc, rfl, rfl⟩ | ⟨b, rest, hc, hs, rfl, rfl⟩ := rTake_one_done h
  · refine ⟨rfl, ?_⟩
    rw [Unpacker.stream, Unpacker.stream, Unpacker.pending_advance, Unpacker.pending, if_neg hc,
      fieldBits_eight_cons _ q.cursor.isLt]
    rfl
  · refine ⟨rfl, ?_⟩
    rw [Unpacker.stream, Unpacker.pending, if_pos hc, hs, bitsOfBytes, List.flatMap_cons,
      ← List.drop_zero (l := fieldBits b 8), fieldBits_eight_cons b (by decide)]
    rfl

/-- The vector a reading returns is the next `n` bits of the stream (42 R160, R166). -/
theorem takeAll_stream {n : Nat} {q q' : Unpacker} {v : Bits} (h : takeAll n q = .done v q') :
    v.length = n ∧ q.stream = v ++ q'.stream := by
  induction n generalizing q v with
  | zero => cases h; exact ⟨rfl, rfl⟩
  | succ n ih =>
    obtain ⟨b, q₁, hb, h⟩ := Run.bind_eq_done h
    obtain ⟨w, q₂, hw, h⟩ := Run.bind_eq_done h
    cases h
    obtain ⟨hl, hs⟩ := rTake_one_stream hb
    obtain ⟨hl', hs'⟩ := ih hw
    exact ⟨by simp [hl, hl', Nat.add_comm], by rw [hs, hs', List.append_assoc]⟩

theorem Unpacker.gets_add (m n : Nat) {q q' : Unpacker}
    (hc : q'.cursor.toNat = (q.cursor.toNat + m) % 8) : q.gets (m + n) = q.gets m + q'.gets n := by
  unfold Unpacker.gets
  split <;> split <;> omega

theorem Unpacker.Consumed.trans {m n : Nat} {q q' q'' : Unpacker} (h : q.Consumed m q')
    (h' : q'.Consumed n q'') : q.Consumed (m + n) q'' := by
  obtain ⟨hc, hk, hs, ht, hp, ha, hf, hb, hu, hd, hr⟩ := h
  obtain ⟨hc', hk', hs', ht', hp', ha', hf', hb', hu', hd', hr'⟩ := h'
  unfold Unpacker.Consumed
  rw [Unpacker.gets_add m n hc]
  refine ⟨by omega, by omega, by rw [hs', hs, List.drop_drop], by rw [ht', ht, List.drop_drop], ?_,
    by rw [ha', ha, Oracle.advance_add], hf'.trans hf, hb'.trans hb, hu'.trans hu, hd'.trans hd,
    hr'.trans hr⟩
  rw [hp', hp, hs, List.take_add]
  simp only [List.getLastD_eq_getLast?, List.getLast?_append, Option.getD_or]

theorem Unpacker.Consumed.refl (q : Unpacker) : q.Consumed 0 q := by
  have hlt := q.cursor.isLt
  have hz : q.gets 0 = 0 := by
    unfold Unpacker.gets
    split <;> omega
  unfold Unpacker.Consumed
  rw [hz]
  exact ⟨by omega, rfl, rfl, rfl, rfl, rfl, rfl, rfl, rfl, rfl, rfl⟩

/-- The position law does not look at `cut`. -/
theorem Unpacker.Consumed.withCut {n : Nat} {q q' : Unpacker} (h : q.Consumed n q')
    (c : Option Nat) : ({ q with cut := c } : Unpacker).Consumed n { q' with cut := c } := by
  obtain ⟨hc, hk, hs, ht, hp, ha, hf, hb, -, hd, hr⟩ := h
  exact ⟨hc, hk, hs, ht, hp, ha, hf, hb, rfl, hd, hr⟩

theorem rTake_one_consumed {q q' : Unpacker} {v : Bits} (h : rTake 1 q = .done v q') :
    q.Consumed 1 { q' with cut := q.cut } := by
  have hlt := q.cursor.isLt
  obtain ⟨hl, hs⟩ := rTake_one_stream h
  have ht : q'.stream = q.stream.drop 1 := by rw [hs, ← hl, List.drop_left]
  obtain ⟨hc, rfl, rfl⟩ | ⟨b, rest, hc, hsrc, rfl, rfl⟩ := rTake_one_done h
  · have hz : q.gets 1 = 0 := by
      rw [Unpacker.gets, if_pos (cursor_pos.mpr hc)]; omega
    unfold Unpacker.Consumed
    rw [hz]
    exact ⟨BitVec.toNat_ofNat .., rfl, rfl, ht, rfl, rfl, rfl, rfl, rfl, rfl, rfl⟩
  · have hz : q.gets 1 = 1 := by simp [Unpacker.gets, hc]
    unfold Unpacker.Consumed
    rw [hz]
    exact ⟨by simp [hc], rfl, by simp [hsrc], ht, by simp [hsrc], rfl, rfl, rfl, rfl, rfl, rfl⟩

/-- A reading that returns follows the position law (42 R174), whatever is left of `cut`. -/
theorem takeAll_consumed {n : Nat} {q q' : Unpacker} {v : Bits} (h : takeAll n q = .done v q') :
    q.Consumed n { q' with cut := q.cut } := by
  induction n generalizing q v with
  | zero => cases h; exact .refl _
  | succ n ih =>
    obtain ⟨b, q₁, hb, h⟩ := Run.bind_eq_done h
    obtain ⟨w, q₂, hw, h⟩ := Run.bind_eq_done h
    cases h
    rw [Nat.add_comm]
    exact (rTake_one_consumed hb).trans ((ih hw).withCut q.cut)

/-- A reader that consumed `n` bits stands `n` bits further (10 R34). -/
theorem Unpacker.Consumed.position {n : Nat} {q q' : Unpacker} (h : q.Consumed n q') :
    q'.position = q.position + n := by
  obtain ⟨hc, hk, -⟩ := h
  simp only [Unpacker.position, hk, hc, Unpacker.gets]
  split <;> split <;> omega

end Sys2Proof.Machine
end


section
/-! PROOFS. The read procedures read their bits one by one (42_bit_unpacker.md R166). -/

namespace Sys2Proof.Machine

/-- Taking `m + n` bits is taking `m` bits, then `n` (42 R166). -/
theorem takeAll_add (m n : Nat) (q : Unpacker) :
    takeAll (m + n) q = (takeAll m q).bind fun v q' =>
      (takeAll n q').bind fun w q'' => .done (v ++ w) q'' := by
  induction m generalizing q with
  | zero => simp [takeAll]
  | succ m ih => simp [Nat.succ_add, takeAll, Run.bind_assoc, ih]

/-- Inside a byte, bits are taken from `R.partial` alone (42 R161). -/
theorem takeAll_eq_rDeliver {n : Nat} {q : Unpacker} (hc : q.cursor ≠ 0#3)
    (hn : q.cursor.toNat + n ≤ 8) : takeAll n q = rDeliver n q := by
  induction n generalizing q with
  | zero => simp [takeAll, rDeliver, partialSlice]
  | succ n ih =>
    rw [takeAll, rTake, if_neg hc, rDeliver, Run.bind_done]
    rcases Nat.eq_zero_or_pos n with rfl | hn'
    · simp [takeAll, rDeliver, partialSlice]
    · have hlt := cursor_ofNat (n := q.cursor.toNat + 1) (by omega)
      rw [ih (cursor_pos.mp (by simp only [hlt]; omega)) (by simp only [hlt]; omega)]
      simp [rDeliver, partialSlice, hlt, Nat.add_assoc, Nat.add_comm 1 n]

/-- `r_take` is the taking of its bits one by one (42 R161, R166). -/
theorem rTake_eq_takeAll {n : Nat} {q : Unpacker} (h1 : 1 ≤ n) (hn : q.cursor.toNat + n ≤ 8) :
    rTake n q = takeAll n q := by
  by_cases hc : q.cursor = 0#3
  · obtain ⟨m, rfl⟩ := Nat.exists_eq_add_of_le' h1
    rw [takeAll, rTake, rTake, if_pos hc, if_pos hc, Run.bind_assoc]
    refine Run.bind_congr fun b q' hq' => ?_
    obtain ⟨rest, -, rfl⟩ := Unpacker.srcGet_done hq'
    simp only [rDeliver, Run.bind_done, Unpacker.deliver_cursor, hc]
    rw [takeAll_eq_rDeliver (by simp) (by simp [hc] at hn ⊢; omega)]
    simp [rDeliver, partialSlice, Nat.add_comm 1 m]
  · rw [takeAll_eq_rDeliver hc hn, rTake, if_neg hc]

/-- A whole byte from its most significant bit on (42 R161, 20_memory.md R57). -/
theorem partialSlice_eight (b : Byte) : partialSlice b 0 8 = bitsOf b 8 := rfl

/-- One turn of the recursion of `r_u8` suffices when the bits lie in one byte (42 R161). -/
theorem rU8Rec_eq_takeAll {n depth : Nat} {q : Unpacker} (h1 : 1 ≤ n)
    (h8 : q.cursor.toNat + n ≤ 8) : rU8Rec (depth + 1) n q = takeAll n q := by
  rw [rU8Rec]
  split
  · next hf =>
    obtain ⟨hc, rfl⟩ := hf
    rw [← rTake_eq_takeAll h1 h8, rTake, if_pos hc]
    refine Run.bind_congr fun b q' hq' => ?_
    obtain ⟨rest, -, rfl⟩ := Unpacker.srcGet_done hq'
    simp [rDeliver, Unpacker.deliver, hc, partialSlice_eight]
  · dsimp only
    rw [if_neg (by omega), rTake_eq_takeAll h1 h8]

/-- `r_u8` is the reading of its bits one by one (42 R166). -/
theorem rU8_eq_takeAll {n : Nat} {q : Unpacker} (h1 : 1 ≤ n) (h8 : n ≤ 8) :
    rU8 n q = takeAll n q := by
  have hlt := q.cursor.isLt
  by_cases hin : q.cursor.toNat + n ≤ 8
  · exact rU8Rec_eq_takeAll h1 hin
  · have hc : q.cursor ≠ 0#3 := cursor_pos.mp (by omega)
    obtain ⟨lo, hlo⟩ : ∃ lo, lo = n - (8 - q.cursor.toNat) := ⟨_, rfl⟩
    rw [rU8, rU8Rec, if_neg (fun hf => hc hf.1), ← hlo, if_pos (by omega),
      rU8Rec_eq_takeAll (by omega) (by omega)]
    conv_rhs => rw [show n = (n - lo) + lo by omega, takeAll_add]
    refine Run.bind_congr fun v q' hq' => ?_
    obtain ⟨hc', -⟩ := takeAll_consumed hq'
    have hc₀ : q'.cursor.toNat = 0 := hc'.trans (by omega)
    rw [rU8Rec_eq_takeAll (by omega) (by omega)]

section
variable {chunk : Nat} {read : Nat → Unpacker → Run Unpacker Bits}

theorem rChunks_eq_takeAll (hr : ∀ q, read chunk q = takeAll chunk q) (k : Nat) (v : Bits)
    (q : Unpacker) :
    rChunks chunk read k v q = (takeAll (k * chunk) q).bind fun w q' => .done (v ++ w) q' := by
  induction k generalizing v q with
  | zero => simp [rChunks, takeAll]
  | succ k ih =>
    simp only [rChunks, hr, ih, Nat.succ_mul, Nat.add_comm (k * chunk), takeAll_add, Run.bind_assoc,
      Run.bind_done, List.append_assoc]

/-- A read cut into chunks is the reading of its bits one by one (42 R162 to R164, R166). -/
theorem rSplit_eq_takeAll (h0 : 0 < chunk)
    (hr : ∀ n q, 1 ≤ n → n ≤ chunk → read n q = takeAll n q) (n : Nat) (q : Unpacker) :
    rSplit chunk read n q = takeAll n q := by
  have hc := rChunks_eq_takeAll fun q => hr chunk q h0 le_rfl
  have hn : n = n % chunk + n / chunk * chunk := by rw [Nat.mul_comm, Nat.mod_add_div]
  unfold rSplit
  dsimp only
  split
  · next hpos =>
    rw [hr _ _ hpos (Nat.mod_lt _ h0).le]
    simp only [hc]
    conv_rhs => rw [hn, takeAll_add]
  · next hz =>
    rw [hc]
    conv_rhs => rw [hn, Nat.eq_zero_of_not_pos hz, Nat.zero_add]
    simp

end

theorem rU16_eq_takeAll (n : Nat) (q : Unpacker) : rU16 n q = takeAll n q :=
  rSplit_eq_takeAll (by decide) (fun _ _ => rU8_eq_takeAll) n q

theorem rU32_eq_takeAll (n : Nat) (q : Unpacker) : rU32 n q = takeAll n q :=
  rSplit_eq_takeAll (by decide) (fun _ _ _ _ => rU16_eq_takeAll _ _) n q

theorem rU64_eq_takeAll (n : Nat) (q : Unpacker) : rU64 n q = takeAll n q :=
  rSplit_eq_takeAll (by decide) (fun _ _ _ _ => rU32_eq_takeAll _ _) n q

theorem rUnsigned_eq_takeAll {k : Native} {n : Nat} {q : Unpacker} (h1 : 1 ≤ n) (hk : n ≤ k.width) :
    rUnsigned k n q = takeAll n q := by
  cases k with
  | byte => exact rU8_eq_takeAll h1 hk
  | short => exact rU16_eq_takeAll n q
  | int => exact rU32_eq_takeAll n q
  | long => exact rU64_eq_takeAll n q

/-- `flag ++ magnitude` is the reading of all its bits one by one (42 R165, R166). -/
theorem rSigned_eq_takeAll {k : Native} {n : Nat} {q : Unpacker} (h1 : 1 ≤ n) (hk : n ≤ k.width) :
    rSigned k n q = takeAll n q := by
  obtain ⟨m, rfl⟩ := Nat.exists_eq_add_of_le h1
  rw [rSigned, takeAll_add, rU8_eq_takeAll le_rfl (by decide)]
  refine Run.bind_congr fun f q' _ => ?_
  split
  · rw [Nat.add_sub_cancel_left, rUnsigned_eq_takeAll (by omega) (by omega)]
  · obtain rfl : m = 0 := by omega
    simp [takeAll]

end Sys2Proof.Machine
end


section
/-! PROOFS. The goal of an alignment (41_bit_packer.md R135, 42_bit_unpacker.md R173). -/

namespace Sys2Proof.Machine

theorem leastMultiple_eq {b k m : Nat} (hm : b ∣ m) (hk : k ≤ m) (hlt : m < k + b) :
    leastMultiple b k = m := by
  obtain ⟨t, rfl⟩ := hm
  rw [leastMultiple, Nat.mul_comm b t]
  congr 1
  have : (t + 1) * b = b * t + b := by ring
  exact Nat.div_eq_of_lt_le (by rw [Nat.mul_comm]; omega) (by omega)

/-- What one turn of an alignment's loop does to its goal (41 R135, 42 R173). -/
theorem leastMultiple_cases {b : Nat} (hb : 0 < b) (k : Nat) :
    (k % b = 0 ∧ leastMultiple b k = k) ∨
    k % b ≠ 0 ∧ k < leastMultiple b k ∧ leastMultiple b k < k + b ∧
      leastMultiple b (k + 1) = leastMultiple b k := by
  by_cases h : k % b = 0
  · exact .inl ⟨h, leastMultiple_eq (Nat.dvd_of_mod_eq_zero h) le_rfl (by omega)⟩
  · have hlt := Nat.mod_lt k hb
    have hd : b ∣ k + (b - k % b) :=
      ⟨k / b + 1, by have := Nat.mod_add_div k b; rw [Nat.mul_add]; omega⟩
    rw [leastMultiple_eq hd (by omega) (by omega), leastMultiple_eq hd (by omega) (by omega)]
    exact .inr ⟨h, by omega, by omega, rfl⟩

end Sys2Proof.Machine
end


section
/-! PROOFS. A legal command of `UNPACKER` takes as many bits as its length says, one by one, and
returns their value. -/

namespace Sys2Proof.Machine

/-! ## Alignment -/

/-- The loop of RALIGN is the reading of whole bytes up to the boundary (42 R173). -/
theorem rSkip_eq_takeAll {boundary fuel bits : Nat} {q : Unpacker} (hb : 0 < boundary)
    (hc : q.cursor = 0#3) (hf : leastMultiple boundary q.count - q.count ≤ fuel) :
    rSkip fuel boundary bits q =
      (takeAll (8 * (leastMultiple boundary q.count - q.count)) q).bind fun v q' =>
        .done (bits + v.length) q' := by
  induction fuel generalizing bits q with
  | zero =>
    rw [Nat.le_zero.mp hf]
    rfl
  | succ f ih =>
    obtain ⟨h0, hm⟩ | ⟨h0, hlt, -, hm⟩ := leastMultiple_cases hb q.count
    · rw [rSkip, if_pos h0, hm, Nat.sub_self]
      rfl
    · rw [rSkip, if_neg h0, rU8_eq_takeAll (by decide) le_rfl,
        show 8 * (leastMultiple boundary q.count - q.count) =
          8 + 8 * (leastMultiple boundary q.count - (q.count + 1)) by omega,
        takeAll_add, Run.bind_assoc]
      refine Run.bind_congr fun v q' hq' => ?_
      obtain ⟨hc', hk', -⟩ := takeAll_consumed hq'
      have hk : q'.count = q.count + 1 := by simpa [Unpacker.gets, hc] using hk'
      rw [ih (BitVec.eq_of_toNat_eq (by simpa [hc] using hc')) (by rw [hk, hm]; omega), hk, hm,
        Run.bind_assoc]
      simp [(takeAll_stream hq').1, Nat.add_assoc]

/-- RALIGN reads its padding bit by bit (42 R166, R173). -/
theorem rAlign_eq_takeAll {boundary : Nat} (hb : 0 < boundary) (q : Unpacker) :
    rAlign boundary q = (takeAll (q.padding boundary) q).bind fun v q' => .done v.length q' := by
  have hf : ∀ k, leastMultiple boundary k - k ≤ boundary := fun k => by
    have := leastMultiple_cases hb k
    omega
  have hlt := q.cursor.isLt
  unfold rAlign Unpacker.padding
  split
  · next hc =>
    rw [rU8_eq_takeAll (by omega) (by omega), Nat.add_comm, takeAll_add, Run.bind_assoc]
    refine Run.bind_congr fun v q' hq' => ?_
    obtain ⟨hc', hk', -⟩ := takeAll_consumed hq'
    have hk : q'.count = q.count := by
      simp only [Unpacker.gets, if_pos hc] at hk'
      omega
    rw [rSkip_eq_takeAll hb (BitVec.eq_of_toNat_eq (by simp only at hc'; rw [hc']; simp; omega))
      (by rw [hk]; exact hf _), hk, Run.bind_assoc]
    simp [(takeAll_stream hq').1]
  · next hc =>
    rw [rSkip_eq_takeAll hb (by simpa [cursor_pos] using hc) (hf _)]
    simp

/-! ## Byte sequences -/

/-- The elements in a run of bits, each `zext_8` of its `range` bits (43 R205). -/
def elementsOf (range : Nat) : Nat → Bits → List Byte
  | 0, _ => []
  | n + 1, v => zext8 (v.take range) :: elementsOf range n (v.drop range)

@[simp] theorem elementsOf_length (range n : Nat) (v : Bits) :
    (elementsOf range n v).length = n := by
  induction n generalizing v with
  | zero => rfl
  | succ n ih => simp [elementsOf, ih]

theorem rElements_eq_takeAll {range : Nat} (h1 : 1 ≤ range) (h8 : range ≤ 8) (n : Nat)
    (q : Unpacker) :
    rElements range n q =
      (takeAll (n * range) q).bind fun v q' => .done (elementsOf range n v) q' := by
  induction n generalizing q with
  | zero => simp [rElements, takeAll, elementsOf]
  | succ n ih =>
    rw [rElements, rU8_eq_takeAll h1 h8, Nat.succ_mul, Nat.add_comm, takeAll_add, Run.bind_assoc]
    refine Run.bind_congr fun v q' hq' => ?_
    have hv := (takeAll_stream hq').1
    simp [ih, Run.bind_assoc, elementsOf, List.take_left' hv, List.drop_left' hv]

/-- Count and elements of a byte sequence, read off its bits (43 R205). -/
def sequenceOf (scale range : Nat) (v : Bits) : BitVec 64 × List Byte :=
  (BitVec.ofNat 64 (uint (v.take scale)), elementsOf range (uint (v.take scale)) (v.drop scale))

/-- A byte-sequence read reads its bits one by one (42 R166, 43 R211). -/
theorem rSequence_eq_takeAll {range : Nat} (h1 : 1 ≤ range) (h8 : range ≤ 8) (scale : Nat)
    (q : Unpacker) :
    rSequence scale range q = (takeAll (q.sequenceLength scale range) q).bind fun v q' =>
      .done (sequenceOf scale range v) q' := by
  rw [rSequence, rU32_eq_takeAll, Unpacker.sequenceLength, takeAll_add, Run.bind_assoc]
  refine Run.bind_congr fun v q' hq' => ?_
  obtain ⟨hv, hs⟩ := takeAll_stream hq'
  have hn : q.nextCount scale = uint v := by rw [Unpacker.nextCount, hs, ← hv, List.take_left]
  simp [rElements_eq_takeAll h1 h8, Run.bind_assoc, hn, sequenceOf, List.take_left' hv,
    List.drop_left' hv]

/-! ## Commands -/

/-- A numeric field as `RESULT` (42 R168 to R171, 30_encoding.md R99). -/
def fieldValue (u : Signedness) (v : Bits) : BitVec 64 :=
  match u with
  | .unsigned => zext64 v
  | .signed => sext64 v

/-- What an `UNPACKER` command returns for the bits `v` it consumes: result and response payload
(30_encoding.md R99, 43 R205). -/
def readValue (i : Instr) (c : Params) (v : Bits) : BitVec 64 × List Byte :=
  match i with
  | .rbyte u _ => (fieldValue u v, [])
  | .rshort u _ => (fieldValue u v, [])
  | .rint u _ => (fieldValue u v, [])
  | .rlong u _ => (fieldValue u v, [])
  | .ralign _ => (paddingResult v.length, [])
  | .rbytes scale range => sequenceOf scale range v
  | .rstr => sequenceOf c.strScale c.strRange v
  | .rascii => sequenceOf c.strScale c.asciiRange v
  | _ => (zext64 v, [])

theorem legalSize_bounds {n : Native} {u : Signedness} {size : Nat}
    (h : legalSize n u size = true) : 1 ≤ size ∧ size ≤ n.width := by
  cases u <;> simp only [legalSize, Bool.and_eq_true, decide_eq_true_eq] at h <;> omega

/-- A numeric field is read bit by bit (42 R165, R166, R168 to R171). -/
theorem rField_eq_takeAll {n : Native} {u : Signedness} {size : Nat}
    (h : legalSize n u size = true) (q : Unpacker) :
    withoutPayload (rField n u size q) = (takeAll size q).bind fun v q' =>
      .done (fieldValue u v, []) q' := by
  obtain ⟨h1, hw⟩ := legalSize_bounds h
  cases u with
  | unsigned => rw [rField, rUnsigned_eq_takeAll h1 hw, withoutPayload, Run.bind_assoc]; rfl
  | signed => rw [rField, rSigned_eq_takeAll h1 hw, withoutPayload, Run.bind_assoc]; rfl

theorem sequence_bounds {scale range : Nat} (h : (legalScale scale && legalRange range) = true) :
    1 ≤ scale ∧ scale ≤ 31 ∧ 1 ≤ range ∧ range ≤ 8 := by
  simp only [legalScale, legalRange, Bool.and_eq_true, decide_eq_true_eq, and_assoc] at h
  exact h

/-- A legal `UNPACKER` command takes as many bits as its length says, one by one, and returns their
value (42 R166, R174). -/
theorem unpackerBody_eq_takeAll {i : Instr} {s : State} (he : i.engine = .unpacker)
    (hl : s.legal i = true) :
    unpackerBody i s.r.params s.r = (takeAll (s.r.commandLength i) s.r).bind fun v q =>
      .done (readValue i s.r.params v) q := by
  cases i
  case rbool =>
    simp [unpackerBody, withoutPayload, rU8_eq_takeAll, Run.bind_assoc, readValue,
      Unpacker.commandLength]
  case rbyte => exact rField_eq_takeAll (n := .byte) hl s.r
  case rshort => exact rField_eq_takeAll (n := .short) hl s.r
  case rint => exact rField_eq_takeAll (n := .int) hl s.r
  case rlong => exact rField_eq_takeAll (n := .long) hl s.r
  case rchar =>
    simp [unpackerBody, withoutPayload, rU16_eq_takeAll, Run.bind_assoc, readValue,
      Unpacker.commandLength]
  case ralign boundary =>
    have hb : 0 < boundary.toNat := by
      simp only [State.legal, legalBoundary, decide_eq_true_eq] at hl
      omega
    simp [unpackerBody, withoutPayload, rAlign_eq_takeAll hb, Run.bind_assoc, readValue,
      Unpacker.commandLength]
  case rbytes =>
    obtain ⟨-, -, h1, h8⟩ := sequence_bounds hl
    exact rSequence_eq_takeAll h1 h8 _ _
  case rstr =>
    obtain ⟨-, -, h1, h8⟩ := sequence_bounds hl
    exact rSequence_eq_takeAll h1 h8 _ _
  case rascii =>
    obtain ⟨-, -, h1, h8⟩ := sequence_bounds hl
    exact rSequence_eq_takeAll h1 h8 _ _
  all_goals cases he

end Sys2Proof.Machine
end


section
/-! PROOFS. Bytes as bits, and the bits placed in the partial byte (20_memory.md R57,
41_bit_packer.md R122). -/

namespace Sys2Proof.Machine

theorem uint_testBit {v : Bits} {j : Nat} (h : j < v.length) :
    (uint v).testBit (v.length - 1 - j) = v[j] := by
  induction v generalizing j with
  | nil => simp at h
  | cons b v ih =>
    rw [uint, Nat.mul_comm, Nat.testBit_two_pow_mul_add _ (uint_lt v), List.length_cons]
    cases j with
    | zero => cases b <;> simp
    | succ j =>
      have hj : j < v.length := by simpa using h
      rw [if_pos (by omega), show v.length + 1 - 1 - (j + 1) = v.length - 1 - j by omega, ih hj]
      rfl

/-- A byte is made of its bits, the most significant first (20_memory.md R57). -/
theorem byteOf_map_getMsbD (x : Byte) : byteOf ((List.range 8).map x.getMsbD) = x := by
  apply BitVec.eq_of_getMsbD_eq
  intro j hj
  have h := uint_testBit (v := (List.range 8).map x.getMsbD) (j := j) (by simpa using hj)
  simp only [List.length_map, List.length_range, List.getElem_map, List.getElem_range] at h
  rw [← h, byteOf, List.take_of_length_le (by simp)]
  simp only [BitVec.getMsbD, hj, decide_true, Bool.true_and, BitVec.getLsbD_ofNat]
  simp only [show 8 - 1 - j < 8 by omega, decide_true, Bool.true_and]

/-- Bits placed from index `i` on stand behind those before it (41 R122). -/
theorem map_getMsbD_setPartialBits (x : BitVec 8) (i : Nat) {v : Bits} (h : i + v.length ≤ 8) :
    (List.range (i + v.length)).map (setPartialBits x i v).getMsbD =
      (List.range i).map x.getMsbD ++ v := by
  induction v generalizing x i with
  | nil => simp [setPartialBits]
  | cons b v ih =>
    simp only [List.length_cons] at h
    have hi := ih (setPartialBit x i b) (i + 1) (by omega)
    rw [setPartialBits, List.length_cons, show i + (v.length + 1) = i + 1 + v.length by omega, hi,
      List.range_succ, List.map_append, List.append_assoc]
    congr 1
    · refine List.map_congr_left fun j hj => ?_
      have hj := List.mem_range.mp hj
      rw [setPartialBit_getMsbD x b j (by omega) (by omega), if_neg (by omega)]
    · simp [setPartialBit_getMsbD x b i (by omega : i < 8) (by omega)]

/-- A byte completed from the pending bits (41 R122, R136). -/
theorem setPartialBits_eq_byteOf (p : Packer) {v : Bits} (h : p.cursor.toNat + v.length = 8) :
    setPartialBits p.partialByte p.cursor.toNat v = byteOf (p.pending ++ v) := by
  have hm := map_getMsbD_setPartialBits p.partialByte p.cursor.toNat h.le
  rw [Packer.pending, ← hm, h, byteOf_map_getMsbD]

/-- The pending bits after some were placed (41 R122). -/
theorem Packer.pending_place (p : Packer) {v : Bits} (h : p.cursor.toNat + v.length < 8) :
    ({ p with
      partialByte := setPartialBits p.partialByte p.cursor.toNat v
      cursor := BitVec.ofNat 3 (p.cursor.toNat + v.length) } : Packer).pending = p.pending ++ v := by
  rw [Packer.pending, Packer.pending, ← map_getMsbD_setPartialBits _ _ h.le, cursor_ofNat h]

end Sys2Proof.Machine
end


section
/-! PROOFS. Bit by bit emission, and runs that 41_bit_packer.md R128 cannot tell from it. -/

namespace Sys2Proof.Machine

/-- Two writers that 41 R128 cannot tell apart: they differ at most in the spare bits of `W.partial`.
It is `sameWrites` on two runs that returned. -/
def Packer.SameValid (p p' : Packer) : Prop :=
  p.pending = p'.pending ∧ ({ p with partialByte := 0#8 } : Packer) = { p' with partialByte := 0#8 }

theorem Packer.SameValid.refl (p : Packer) : p.SameValid p := ⟨rfl, rfl⟩

theorem Packer.SameValid.eq_with {p p' : Packer} (h : p.SameValid p') :
    p' = { p with partialByte := p'.partialByte } := by
  obtain ⟨-, h⟩ := h
  exact (congrArg (fun t : Packer => { t with partialByte := p'.partialByte }) h).symm

theorem sameWrites.refl (x : Run Packer Unit) : sameWrites x x := by
  cases x with
  | done _ p => exact Packer.SameValid.refl p
  | halted h p => exact ⟨rfl, rfl⟩

theorem sameWrites.trans {x y z : Run Packer Unit} (h : sameWrites x y) (h' : sameWrites y z) :
    sameWrites x z := by
  cases x <;> cases y <;> cases z <;> simp only [sameWrites] at h h' ⊢
  · exact ⟨h.1.trans h'.1, h.2.trans h'.2⟩
  · exact ⟨h.1.trans h'.1, h.2.trans h'.2⟩

/-- Offering a byte does not look at `W.partial` (20_memory.md R52). -/
theorem sinkPut_sameWrites (b : Byte) {p p' : Packer} (h : p.SameValid p') :
    sameWrites (p.sinkPut b) (p'.sinkPut b) := by
  obtain ⟨y, rfl⟩ : ∃ y, p' = { p with partialByte := y } := ⟨_, h.eq_with⟩
  obtain ⟨hp, -⟩ := h
  unfold Packer.sinkPut
  dsimp only
  split
  · exact ⟨rfl, rfl⟩
  · split
    · exact ⟨rfl, rfl⟩
    · exact ⟨rfl, rfl⟩
    · split
      · exact ⟨hp, rfl⟩
      · exact ⟨rfl, rfl⟩

/-- Placing one bit: it stays pending, or completes a byte that is offered to the sink (41 R122). -/
theorem wPlace_one (b : Bool) (p : Packer) :
    (p.cursor.toNat < 7 ∧ wPlace [b] p = .done () { p with
      partialByte := setPartialBits p.partialByte p.cursor.toNat [b]
      cursor := BitVec.ofNat 3 (p.cursor.toNat + 1) }) ∨
    p.cursor.toNat = 7 ∧ wPlace [b] p = ({ p with
      partialByte := byteOf (p.pending ++ [b]), cursor := 0#3 } : Packer).sinkPut
        (byteOf (p.pending ++ [b])) := by
  have hlt := p.cursor.isLt
  rcases Nat.lt_or_ge p.cursor.toNat 7 with h | h
  · exact .inl ⟨h, by simp only [wPlace, List.length_cons, List.length_nil]; rw [if_neg (by omega)]⟩
  · have h8 : p.cursor.toNat + [b].length = 8 := by simp; omega
    exact .inr ⟨by omega, by rw [wPlace]; simp only [h8, if_true, setPartialBits_eq_byteOf p h8]⟩

theorem emitAll_append (v w : Bits) (p : Packer) :
    emitAll (v ++ w) p = (emitAll v p).bind fun _ p' => emitAll w p' := by
  induction v generalizing p with
  | nil => rfl
  | cons b v ih => simp [emitAll, Run.bind_assoc, ih]

theorem emitAll_singleton (b : Bool) (p : Packer) : emitAll [b] p = wPlace [b] p := by
  rw [emitAll]
  exact Run.bind_return _

theorem wPlace_sameWrites (b : Bool) {p p' : Packer} (h : p.SameValid p') :
    sameWrites (wPlace [b] p) (wPlace [b] p') := by
  obtain ⟨y, rfl⟩ : ∃ y, p' = { p with partialByte := y } := ⟨_, h.eq_with⟩
  obtain ⟨hp, -⟩ := h
  rcases wPlace_one b p with ⟨hc, e⟩ | ⟨hc, e⟩ <;>
    rcases wPlace_one b { p with partialByte := y } with ⟨hc', e'⟩ | ⟨hc', e'⟩
  · rw [e, e']
    refine ⟨?_, rfl⟩
    have h1 := Packer.pending_place p (v := [b]) (by simpa using by omega)
    have h2 := Packer.pending_place { p with partialByte := y } (v := [b]) (by simpa using by omega)
    exact h1.trans ((congrArg (· ++ [b]) hp).trans h2.symm)
  · exact absurd hc' (by simpa using by omega)
  · exact absurd hc' (by simpa using by omega)
  · rw [e, e', ← hp]
    exact .refl _

/-- One run after another, each up to what 41 R128 cannot see. -/
theorem sameWrites.bind {x y : Run Packer Unit} {f g : Unit → Packer → Run Packer Unit}
    (h : sameWrites x y)
    (hf : ∀ p p', x = .done () p → p.SameValid p' → sameWrites (f () p) (g () p')) :
    sameWrites (x.bind f) (y.bind g) := by
  cases x with
  | done _ p =>
    cases y with
    | done _ p' => exact hf p p' rfl h
    | halted _ _ => exact h.elim
  | halted _ p =>
    cases y with
    | done _ p' => exact h.elim
    | halted _ p' => exact h

theorem emitAll_sameWrites (v : Bits) {p p' : Packer} (h : p.SameValid p') :
    sameWrites (emitAll v p) (emitAll v p') := by
  induction v generalizing p p' with
  | nil => exact h
  | cons b v ih => exact (wPlace_sameWrites b h).bind fun _ _ _ h' => ih h'

/-! ## Write procedures -/

/-- The run `x` from `p` makes the transfers of the emission of `v`, ends as it does, and returns `a`
if it returns (41 R128). -/
def Emits {α : Type} (v : Bits) (a : α) (p : Packer) (x : Run Packer α) : Prop :=
  sameWrites (x.bind fun _ t => .done () t) (emitAll v p) ∧ ∀ a' t, x = .done a' t → a' = a

section
variable {α β : Type} {v w : Bits} {a : α} {b : β} {p t : Packer}

theorem Emits.done (a : α) (p : Packer) : Emits [] a p (.done a p) :=
  ⟨.refl _, fun _ _ h => by cases h; rfl⟩

theorem emitAll_emits (v : Bits) (p : Packer) : Emits v () p (emitAll v p) :=
  ⟨by rw [Run.bind_return]; exact .refl _, fun _ _ _ => rfl⟩

theorem Emits.bind {x : Run Packer α} {f : α → Packer → Run Packer β} (hx : Emits v a p x)
    (hf : ∀ t, x = .done a t → Emits w b t (f a t)) : Emits (v ++ w) b p (x.bind f) := by
  obtain ⟨hs, ha⟩ := hx
  rw [Emits, emitAll_append]
  cases x with
  | halted h t =>
    exact ⟨hs.bind (f := fun _ t => .halted h t) (fun _ _ e => by cases e), fun _ _ e => by cases e⟩
  | done a' t =>
    obtain rfl := ha a' t rfl
    obtain ⟨hs', hb⟩ := hf t rfl
    refine ⟨?_, hb⟩
    have := hs.bind (f := fun _ t => (f a' t).bind fun _ t => .done () t)
      (g := fun _ t => emitAll w t) fun p p' e h => by
        cases e
        exact hs'.trans (emitAll_sameWrites w h)
    exact this

/-- A field written in two parts, cut behind `k` bits. -/
theorem Emits.bind_take (k : Nat) {x : Run Packer α} {f : α → Packer → Run Packer β}
    (hx : Emits (v.take k) a p x) (hf : ∀ t, x = .done a t → Emits (v.drop k) b t (f a t)) :
    Emits v b p (x.bind f) := by
  have h := hx.bind hf
  rwa [List.take_append_drop] at h

/-- Another result for the same writes. -/
theorem Emits.returns {x : Run Packer α} (h : Emits v a p x) (g : α → β) :
    Emits v (g a) p (x.bind fun a t => .done (g a) t) := by
  have h := h.bind (f := fun a t => .done (g a) t) fun t _ => .done (g a) t
  rwa [List.append_nil] at h

/-- A run that returned left the engine where the emission leaves it, but for the spare bits. -/
theorem Emits.of_done {x : Run Packer α} {a' : α} (h : Emits v a p x) (hx : x = .done a' t) :
    a' = a ∧ ∃ t', emitAll v p = .done () t' ∧ t.SameValid t' := by
  subst hx
  obtain ⟨hs, ha⟩ := h
  refine ⟨ha _ _ rfl, ?_⟩
  cases he : emitAll v p with
  | done _ t' => rw [he] at hs; exact ⟨t', rfl, hs⟩
  | halted _ _ => rw [he] at hs; exact hs.elim

/-- A run that halted did as the emission does, for the same reason and after the same transfers. -/
theorem Emits.of_halted {x : Run Packer α} {h : Halt} (he : Emits v a p x) (hx : x = .halted h t) :
    ∃ t', emitAll v p = .halted h t' ∧
      ({ t with partialByte := 0#8, cursor := 0#3 } : Packer) =
        { t' with partialByte := 0#8, cursor := 0#3 } := by
  subst hx
  obtain ⟨hs, -⟩ := he
  cases e : emitAll v p with
  | done _ t' => rw [e] at hs; exact hs.elim
  | halted _ t' => rw [e] at hs; exact ⟨t', by rw [hs.1], hs.2⟩

/-- Where the emission halts, the run does, for the same reason. -/
theorem Emits.halted {x : Run Packer α} {h : Halt} (he : Emits v a p x)
    (hx : emitAll v p = .halted h t) : ∃ t', x = .halted h t' := by
  cases x with
  | done a' t' =>
    obtain ⟨-, t'', hd, -⟩ := he.of_done rfl
    rw [hx] at hd
    cases hd
  | halted h' t' =>
    obtain ⟨t'', hh, -⟩ := he.of_halted rfl
    rw [hx] at hh
    cases hh
    exact ⟨t', rfl⟩

end

/-- `w_place` is the emission of its bits one by one (41 R122, R128). -/
theorem wPlace_eq_emitAll {v : Bits} {p : Packer} (h1 : 1 ≤ v.length)
    (h8 : p.cursor.toNat + v.length ≤ 8) : wPlace v p = emitAll v p := by
  induction v generalizing p with
  | nil => simp at h1
  | cons b v ih =>
    simp only [List.length_cons] at h8
    rcases v with _ | ⟨c, v⟩
    · rw [emitAll_singleton]
    · simp only [List.length_cons] at h8
      obtain ⟨hc, e⟩ | ⟨hc, -⟩ := wPlace_one b p
      · have hcur := cursor_ofNat (n := p.cursor.toNat + 1) (by omega)
        rw [emitAll, e, Run.bind_done, ← ih (by simp) (by simp [hcur]; omega)]
        simp [wPlace, setPartialBits, hcur, Nat.add_assoc, Nat.add_comm 1]
      · omega

/-- A whole byte at cursor 0 goes to the sink without being placed (41 R123). -/
theorem sinkPut_emits {v : Bits} {p : Packer} (hc : p.cursor = 0#3) (h8 : v.length = 8) :
    Emits v () p (p.sinkPut (zext8 v)) := by
  have hb : zext8 v = byteOf v := by rw [zext8, byteOf, List.take_of_length_le h8.le]
  have hp : p.pending = [] := by simp [Packer.pending, hc]
  have h : p.cursor.toNat + v.length = 8 := by simp [hc, h8]
  refine ⟨?_, fun _ _ _ => rfl⟩
  rw [Run.bind_return, ← wPlace_eq_emitAll (by omega) h.le, wPlace]
  simp only [h, if_true, setPartialBits_eq_byteOf p h, hp, List.nil_append, hb]
  refine sinkPut_sameWrites _ ⟨?_, ?_⟩
  · simp [Packer.pending, hc]
  · simp [← hc]

theorem wU8Rec_emits {depth : Nat} {v : Bits} {p : Packer} (h1 : 1 ≤ v.length)
    (h8 : p.cursor.toNat + v.length ≤ 8) : Emits v () p (wU8Rec (depth + 1) v p) := by
  rw [wU8Rec]
  split
  · next hf => exact sinkPut_emits hf.1 hf.2
  · dsimp only
    rw [if_neg (by omega), wPlace_eq_emitAll h1 h8]
    exact emitAll_emits v p

end Sys2Proof.Machine
end


section
/-! PROOFS. The position law of the writer: what an emission leaves (41_bit_packer.md R136). -/

namespace Sys2Proof.Machine

theorem bytesOf_add (m n : Nat) (v : Bits) :
    bytesOf (m + n) v = bytesOf m v ++ bytesOf n (v.drop (8 * m)) := by
  induction m generalizing v with
  | zero => simp [bytesOf]
  | succ m ih =>
    rw [Nat.succ_add, bytesOf, bytesOf, ih, List.drop_drop, Nat.mul_succ, Nat.add_comm 8]
    rfl

/-- Only the first `8 * k` bits make the first `k` bytes. -/
theorem bytesOf_append {k : Nat} {v : Bits} (h : 8 * k ≤ v.length) (w : Bits) :
    bytesOf k (v ++ w) = bytesOf k v := by
  induction k generalizing v with
  | zero => rfl
  | succ k ih =>
    rw [bytesOf, bytesOf, byteOf, byteOf, List.take_append_of_le_length (by omega),
      List.drop_append_of_le_length (by omega), ih (by simp; omega)]

theorem Packer.puts_add (m n : Nat) {p p' : Packer}
    (hc : p'.cursor.toNat = (p.cursor.toNat + m) % 8) : p.puts (m + n) = p.puts m + p'.puts n := by
  unfold Packer.puts
  omega

theorem Packer.Written.refl (p : Packer) : p.Written [] p := by
  have hlt := p.cursor.isLt
  have hz : p.puts 0 = 0 := by unfold Packer.puts; omega
  unfold Packer.Written
  rw [List.length_nil, hz]
  exact ⟨by omega, rfl, by simp [bytesOf], by simp, rfl, rfl, rfl, rfl, rfl, rfl⟩

theorem Packer.Written.trans {v w : Bits} {p p' p'' : Packer} (h : p.Written v p')
    (h' : p'.Written w p'') : p.Written (v ++ w) p'' := by
  obtain ⟨hc, hk, hs, hp, ha, hf, hb, hu, hd, hr⟩ := h
  obtain ⟨hc', hk', hs', hp', ha', hf', hb', hu', hd', hr'⟩ := h'
  have hle : 8 * p.puts v.length ≤ (p.pending ++ v).length := by
    simp [Packer.puts]; omega
  unfold Packer.Written
  rw [List.length_append, Packer.puts_add _ _ hc]
  refine ⟨by omega, by omega, ?_, ?_, by rw [ha', ha, Oracle.advance_add], hf'.trans hf,
    hb'.trans hb, hu'.trans hu, hd'.trans hd, hr'.trans hr⟩
  · rw [hs', hs, hp, bytesOf_add, ← List.append_assoc p.pending, bytesOf_append hle,
      List.drop_append_of_le_length hle, List.append_assoc]
  · rw [hp', hp, Nat.mul_add, ← List.drop_drop, ← List.append_assoc p.pending,
      List.drop_append_of_le_length hle]

/-- The position law does not look at `cut`. -/
theorem Packer.Written.withCut {v : Bits} {p p' : Packer} (h : p.Written v p') (c : Option Nat) :
    ({ p with cut := c } : Packer).Written v { p' with cut := c } := by
  obtain ⟨hc, hk, hs, hp, ha, hf, hb, -, hd, hr⟩ := h
  exact ⟨hc, hk, hs, hp, ha, hf, hb, rfl, hd, hr⟩

theorem wPlace_one_written {b : Bool} {p p' : Packer} (h : wPlace [b] p = .done () p') :
    p.Written [b] { p' with cut := p.cut } := by
  obtain ⟨hc, e⟩ | ⟨hc, e⟩ := wPlace_one b p <;> rw [e] at h
  · cases h
    have hz : p.puts [b].length = 0 := by simp [Packer.puts]; omega
    have hp := p.pending_place (v := [b]) (by simpa using by omega)
    unfold Packer.Written
    rw [hz]
    exact ⟨BitVec.toNat_ofNat .., rfl, by simp [bytesOf], hp, rfl, rfl, rfl, rfl, rfl, rfl⟩
  · obtain rfl := Packer.sinkPut_done h
    have hz : p.puts [b].length = 1 := by simp [Packer.puts, hc]
    unfold Packer.Written
    rw [hz]
    exact ⟨by simp [hc], rfl, by simp [bytesOf], by simp [Packer.pending, hc], rfl, rfl, rfl, rfl,
      rfl, rfl⟩

/-- An emission that returns follows the position law (41 R136), whatever is left of `cut`. -/
theorem emitAll_written {v : Bits} {p p' : Packer} (h : emitAll v p = .done () p') :
    p.Written v { p' with cut := p.cut } := by
  induction v generalizing p with
  | nil => cases h; exact .refl _
  | cons b v ih =>
    obtain ⟨_, p₁, hb, h⟩ := Run.bind_eq_done h
    exact (wPlace_one_written hb).trans ((ih h).withCut p.cut)

/-- A writer that wrote `v` stands `v.length` bits further (10 R34). -/
theorem Packer.Written.position {v : Bits} {p p' : Packer} (h : p.Written v p') :
    p'.position = p.position + v.length := by
  obtain ⟨hc, hk, -⟩ := h
  simp only [Packer.position, hk, hc, Packer.puts]
  omega

/-- The position law says nothing of the spare bits. -/
theorem Packer.Written.of_sameValid {v : Bits} {p t t' : Packer} (h : p.Written v t')
    (ht : t.SameValid t') : p.Written v t := by
  have he := ht.eq_with
  obtain ⟨hpend, -⟩ := ht
  obtain ⟨hc, hk, hs, hp, ha, hf, hb, hu, hd, hr⟩ := h
  rw [he] at hc hk hs ha hf hb hu hd hr
  exact ⟨hc, hk, hs, hpend.trans hp, ha, hf, hb, hu, hd, hr⟩

/-- A write procedure that returns follows the position law (41 R136), whatever is left of `cut`. -/
theorem Emits.written {α : Type} {v : Bits} {a a' : α} {p t : Packer} {x : Run Packer α}
    (h : Emits v a p x) (hx : x = .done a' t) : p.Written v { t with cut := p.cut } := by
  obtain ⟨-, t', he, ht⟩ := h.of_done hx
  refine (emitAll_written he).of_sameValid ⟨ht.1, ?_⟩
  rw [ht.eq_with]

end Sys2Proof.Machine
end


section
/-! PROOFS. A legal command of `PACKER` emits its bits, one by one, and returns its value. -/

namespace Sys2Proof.Machine

/-! ## Write procedures, bit by bit -/

/-- `w_u8` is the emission of its bits one by one (41 R123, R128). -/
theorem wU8_emits {v : Bits} {p : Packer} (h1 : 1 ≤ v.length) (h8 : v.length ≤ 8) :
    Emits v () p (wU8 v p) := by
  have hlt := p.cursor.isLt
  by_cases hin : p.cursor.toNat + v.length ≤ 8
  · exact wU8Rec_emits h1 hin
  · have hc : p.cursor ≠ 0#3 := cursor_pos.mp (by omega)
    rw [wU8, wU8Rec, if_neg (fun hf => hc hf.1)]
    dsimp only
    rw [if_pos (by omega)]
    have hfst := wU8Rec_emits (depth := 0) (p := p)
      (v := v.take (v.length - (v.length - (8 - p.cursor.toNat)))) (by simp; omega) (by simp; omega)
    refine hfst.bind_take _ fun t ht => ?_
    obtain ⟨hct, -⟩ := hfst.written ht
    simp only [List.length_take] at hct
    exact wU8Rec_emits (by simp; omega) (by simp; omega)

section
variable {chunk : Nat} {write : Bits → Packer → Run Packer Unit}

theorem wChunks_emits (hw : ∀ v p, v.length = chunk → Emits v () p (write v p)) {n : Nat} {v : Bits}
    {p : Packer} (hv : v.length = n * chunk) : Emits v () p (wChunks chunk write n v p) := by
  induction n generalizing v p with
  | zero =>
    obtain rfl : v = [] := List.eq_nil_of_length_eq_zero (by omega)
    exact .done () p
  | succ n ih =>
    rw [Nat.succ_mul] at hv
    exact (hw _ p (by simp; omega)).bind_take chunk fun t _ => ih (by simp; omega)

/-- A write cut into chunks is the emission of its bits one by one (41 R124 to R126, R128). -/
theorem wSplit_emits (h0 : 0 < chunk)
    (hw : ∀ v p, 1 ≤ v.length → v.length ≤ chunk → Emits v () p (write v p)) (v : Bits)
    (p : Packer) : Emits v () p (wSplit chunk write v p) := by
  have hc := @wChunks_emits chunk write fun v p h => hw v p (by omega) h.le
  have hlt := Nat.mod_lt v.length h0
  have hdiv := Nat.mod_add_div v.length chunk
  rw [Nat.mul_comm] at hdiv
  unfold wSplit
  dsimp only
  split
  · exact (hw _ p (by simp; omega) (by simp; omega)).bind_take _ fun t _ => hc (by simp; omega)
  · exact hc (by omega)

end

theorem wU16_emits (v : Bits) (p : Packer) : Emits v () p (wU16 v p) :=
  wSplit_emits (by decide) (fun _ _ => wU8_emits) v p

theorem wU32_emits (v : Bits) (p : Packer) : Emits v () p (wU32 v p) :=
  wSplit_emits (by decide) (fun _ _ _ _ => wU16_emits _ _) v p

theorem wU64_emits (v : Bits) (p : Packer) : Emits v () p (wU64 v p) :=
  wSplit_emits (by decide) (fun _ _ _ _ => wU32_emits _ _) v p

theorem wUnsigned_emits {n : Native} {v : Bits} {p : Packer} (h1 : 1 ≤ v.length)
    (hn : v.length ≤ n.width) : Emits v () p (wUnsigned n v p) := by
  cases n with
  | byte => exact wU8_emits h1 hn
  | short => exact wU16_emits v p
  | int => exact wU32_emits v p
  | long => exact wU64_emits v p

/-- The sign bit and the rest are the emission of all bits one by one (41 R127, R128). -/
theorem wSigned_emits {n : Native} {v : Bits} {p : Packer} (h1 : 1 ≤ v.length)
    (hn : v.length ≤ n.width) : Emits v () p (wSigned n v p) := by
  refine (wU8_emits (by simp; omega) (by simp)).bind_take 1 fun t _ => ?_
  split
  · exact wUnsigned_emits (by simp; omega) (by simp; omega)
  · rw [List.drop_of_length_le (by omega)]
    exact .done () t

theorem wField_emits {n : Native} {u : Signedness} {v : Bits} (h : legalSize n u v.length = true)
    (p : Packer) : Emits v () p (wField n u v p) := by
  obtain ⟨h1, hn⟩ := legalSize_bounds h
  cases u with
  | unsigned => exact wUnsigned_emits h1 hn
  | signed => exact wSigned_emits h1 hn

/-- The loop of WALIGN writes zero bytes up to the boundary (41 R135). -/
theorem wPad_emits {boundary fuel bits : Nat} {p : Packer} (hb : 0 < boundary) (hc : p.cursor = 0#3)
    (hf : leastMultiple boundary p.count - p.count ≤ fuel) :
    Emits (List.replicate (8 * (leastMultiple boundary p.count - p.count)) false)
      (bits + 8 * (leastMultiple boundary p.count - p.count)) p (wPad fuel boundary bits p) := by
  induction fuel generalizing bits p with
  | zero =>
    rw [Nat.le_zero.mp hf]
    exact .done bits p
  | succ f ih =>
    obtain ⟨h0, hm⟩ | ⟨h0, hlt, -, hm⟩ := leastMultiple_cases hb p.count
    · rw [wPad, if_pos h0, hm, Nat.sub_self]
      exact .done bits p
    · have h8 := wU8_emits (v := List.replicate 8 false) (p := p) (by decide) (by decide)
      rw [wPad, if_neg h0,
        show 8 * (leastMultiple boundary p.count - p.count) =
          8 + 8 * (leastMultiple boundary p.count - (p.count + 1)) by omega, List.replicate_add,
        ← Nat.add_assoc]
      refine h8.bind fun t ht => ?_
      obtain ⟨hct, hk, -⟩ := h8.written ht
      have hk : t.count = p.count + 1 := by simpa [Packer.puts, hc] using hk
      rw [← hm, ← hk]
      exact ih (BitVec.eq_of_toNat_eq (by simpa [hc] using hct)) (by rw [hk, hm]; omega)

/-- WALIGN emits its padding (41 R128, R135). -/
theorem wAlign_emits {boundary : Nat} (hb : 0 < boundary) (p : Packer) :
    Emits (List.replicate (p.padding boundary) false) (p.padding boundary) p
      (wAlign boundary p) := by
  have hf : ∀ k, leastMultiple boundary k - k ≤ boundary := fun k => by
    have := leastMultiple_cases hb k
    omega
  have hlt := p.cursor.isLt
  unfold wAlign Packer.padding
  split
  · next hc =>
    have hm := leastMultiple_cases hb (p.count + 1)
    have hz := wU8_emits (v := List.replicate (8 - p.cursor.toNat) false) (p := p)
      (by simp; omega) (by simp)
    rw [show 8 * (leastMultiple boundary (p.count + 1) - p.count) - p.cursor.toNat =
      (8 - p.cursor.toNat) + 8 * (leastMultiple boundary (p.count + 1) - (p.count + 1)) by omega,
      List.replicate_add]
    refine hz.bind fun t ht => ?_
    obtain ⟨hct, hk, -⟩ := hz.written ht
    have h8 : p.cursor.toNat + (8 - p.cursor.toNat) = 8 := by omega
    simp only [List.length_replicate, h8, Packer.puts] at hct hk
    rw [← hk]
    exact wPad_emits hb (BitVec.eq_of_toNat_eq hct) (hf _)
  · next hc =>
    have := wPad_emits (bits := 0) hb (by simpa [cursor_pos] using hc) (hf p.count)
    simpa [Nat.eq_zero_of_not_pos hc] using this

theorem wElements_emits {range : Nat} (h1 : 1 ≤ range) (h8 : range ≤ 8) (d : List Byte)
    (p : Packer) : Emits (d.flatMap fun b => fieldBits b range) () p (wElements range d p) := by
  induction d generalizing p with
  | nil => exact .done () p
  | cons b d ih =>
    rw [List.flatMap_cons, wElements, bitsOf_eq_fieldBits]
    exact (wU8_emits (by simpa) (by simpa)).bind fun t _ => ih t

/-- A byte-sequence write emits the bits of the sequence (43 R204, 30 R85). -/
theorem wSequence_emits {range : Nat} (h1 : 1 ≤ range) (h8 : range ≤ 8) (scale : Nat)
    (d : List Byte) (p : Packer) :
    Emits (sequenceBits scale range d) () p (wSequence scale range d p) := by
  rw [wSequence, bitsOf_eq_fieldBits]
  exact (wU32_emits _ p).bind fun t _ => wElements_emits h1 h8 d t

/-! ## Commands -/

/-- What a `PACKER` command returns when it wrote `n` bits (30_encoding.md R99). -/
def writeValue (i : Instr) (n : Nat) : BitVec 64 :=
  match i with
  | .walign _ => paddingResult n
  | _ => 0#64

theorem returnZero_emits {v : Bits} {p : Packer} {x : Run Packer Unit} (h : Emits v () p x) :
    Emits v 0#64 p (returnZero x) :=
  h.returns fun _ => 0#64

theorem writeField_emits {m size : Nat} {n : Native} {u : Signedness}
    (h : legalSize n u size = true) (v : BitVec m) (p : Packer) :
    Emits (fieldBits v size) 0#64 p (returnZero (wField n u (bitsOf v size) p)) := by
  rw [bitsOf_eq_fieldBits]
  exact returnZero_emits (wField_emits (by simpa using h) p)

theorem writeSequence_emits {scale range len : Nat} (h : legalSequence scale range len = true)
    (d : List Byte) (p : Packer) :
    Emits (sequenceBits scale range d) 0#64 p (returnZero (wSequence scale range d p)) := by
  rw [legalSequence, Bool.and_eq_true] at h
  obtain ⟨-, -, h1, h8⟩ := sequence_bounds h.1
  exact returnZero_emits (wSequence_emits h1 h8 scale d p)

/-- A legal `PACKER` command emits its bits, one by one, and returns its value (41 R128, R136). -/
theorem packerBody_emits {i : Instr} {s : State} (he : i.engine = .packer) (hl : s.legal i = true)
    (d : List Byte) {p : Packer} (hp : p.params = s.w.params) :
    Emits (p.commandBits i d) (writeValue i (p.commandBits i d).length) p
      (packerBody i s.w.params d p) := by
  cases i
  case wbool b => exact returnZero_emits (wU8_emits (v := [b]) (by simp) (by simp))
  case wbyte u size v => exact writeField_emits (n := .byte) hl v p
  case wshort u size v => exact writeField_emits (n := .short) hl v p
  case wint u size v => exact writeField_emits (n := .int) hl v p
  case wlong u size v => exact writeField_emits (n := .long) hl v p
  case wchar size v =>
    rw [packerBody, bitsOf_eq_fieldBits]
    exact returnZero_emits (wU16_emits _ p)
  case walign boundary =>
    have hb : 0 < boundary.toNat := by
      simp only [State.legal, legalBoundary, decide_eq_true_eq] at hl
      omega
    have hlen : (p.commandBits (.walign boundary) d).length = p.padding boundary.toNat :=
      List.length_replicate
    rw [hlen]
    exact (wAlign_emits hb p).returns paddingResult
  case wbytes => exact writeSequence_emits hl d p
  case wstr =>
    rw [Packer.commandBits, hp]
    exact writeSequence_emits hl d p
  case wascii =>
    rw [Packer.commandBits, hp]
    exact writeSequence_emits hl d p
  all_goals cases he

end Sys2Proof.Machine
end


section
/-! PROOFS. What every run of a legal command's pseudocode keeps, wherever it ends. -/

namespace Sys2Proof.Machine

/-- `R.cursor` other than 0 means that a byte was pulled (10_state.md R26). -/
def Unpacker.Grounded (q : Unpacker) : Prop := q.cursor = 0#3 ∨ 0 < q.count

/-- What the host needs to know of the pseudocode of a `PACKER` command, wherever it ends. -/
structure Packer.Runs (p : Packer) (x : Run Packer (BitVec 64)) : Prop where
  sends : p.Sends x.final
  rst : ∀ p', x = .halted .rst p' → p'.cut = some 0

/-- What the host needs to know of the pseudocode of an `UNPACKER` command, wherever it ends. -/
structure Unpacker.Runs (q : Unpacker) (x : Run Unpacker (BitVec 64 × List Byte)) : Prop where
  pulls : q.Pulls x.final
  rst : ∀ q', x = .halted .rst q' → q'.cut = some 0
  grounded : q.Grounded → x.final.Grounded
  answer : ∀ v q', x = .done v q' → (⟨.ok, v.1, v.2⟩ : Response).wellFormed = true

/-- An emission that `rst` ends has come to the transfer at which the host asserts it (70 R292). -/
theorem emitAll_rst {v : Bits} {p t : Packer} (h : emitAll v p = .halted .rst t) :
    t.cut = some 0 := by
  induction v generalizing p with
  | nil => cases h
  | cons b v ih =>
    rcases Run.bind_eq_halted h with hb | ⟨_, p₁, -, hv⟩
    · obtain ⟨-, e⟩ | ⟨-, e⟩ := wPlace_one b p <;> rw [e] at hb
      · cases hb
      · obtain ⟨hc, e⟩ | ⟨-, o, ⟨-, e⟩ | ⟨-, e⟩ | ⟨-, -, e⟩ | ⟨-, -, e⟩⟩ := Packer.sinkPut_cases
          (byteOf (p.pending ++ [b]))
          { p with partialByte := byteOf (p.pending ++ [b]), cursor := 0#3 } <;>
          rw [e] at hb <;> cases hb
        exact hc
    · exact ih hv

theorem packerBody_runs {i : Instr} {s : State} (he : i.engine = .packer) (hl : s.legal i = true)
    (d : List Byte) {p : Packer} (hp : p.params = s.w.params) :
    p.Runs (packerBody i s.w.params d p) where
  sends := packerBody_sends i _ d p
  rst p' h := by
    obtain ⟨t, ht, heq⟩ := (packerBody_emits he hl d hp).of_halted h
    have hcut : t.cut = some 0 := emitAll_rst ht
    exact (congrArg Packer.cut heq).trans hcut

theorem Run.bind_grounded {α β : Type} {x : Run Unpacker α} {f : α → Unpacker → Run Unpacker β}
    (hx : x.final.Grounded) (hf : ∀ a t, t.Grounded → (f a t).final.Grounded) :
    (x.bind f).final.Grounded := by
  cases x with
  | done a t => exact hf a t hx
  | halted h t => exact hx

theorem rTake_grounded (n : Nat) {q : Unpacker} (hq : q.Grounded) : (rTake n q).final.Grounded := by
  by_cases hc : q.cursor = 0#3
  · rw [rTake, if_pos hc]
    obtain ⟨-, e⟩ | ⟨-, o, ⟨-, e⟩ | ⟨-, e⟩ | ⟨b, rest, -, -, ⟨-, e⟩ | ⟨-, e⟩⟩⟩ := q.srcGet_cases <;>
      rw [e]
    · exact .inl hc
    · exact .inl hc
    · exact .inl hc
    · exact .inr (Nat.succ_pos _)
    · exact .inl hc
  · rw [rTake, if_neg hc]
    exact .inr (hq.resolve_left hc)

theorem takeAll_grounded {n : Nat} {q : Unpacker} (hq : q.Grounded) :
    (takeAll n q).final.Grounded := by
  induction n generalizing q with
  | zero => exact hq
  | succ n ih =>
    exact Run.bind_grounded (rTake_grounded 1 hq) fun _ _ h =>
      Run.bind_grounded (ih h) fun _ _ h' => h'

theorem rTake_rst {n : Nat} {q t : Unpacker} (h : rTake n q = .halted .rst t) : t.cut = some 0 := by
  rw [rTake] at h
  split at h
  · obtain ⟨hc, e⟩ | ⟨-, o, ⟨-, e⟩ | ⟨-, e⟩ | ⟨b, rest, -, -, ⟨-, e⟩ | ⟨-, e⟩⟩⟩ :=
      q.srcGet_cases <;> rw [e] at h <;> cases h
    exact hc
  · cases h

/-- A reading that `rst` ends has come to the transfer at which the host asserts it (70 R292). -/
theorem takeAll_rst {n : Nat} {q t : Unpacker} (h : takeAll n q = .halted .rst t) :
    t.cut = some 0 := by
  induction n generalizing q with
  | zero => cases h
  | succ n ih =>
    rcases Run.bind_eq_halted h with hb | ⟨b, q₁, -, hv⟩
    · exact rTake_rst hb
    · rcases Run.bind_eq_halted hv with hw | ⟨w, q₂, -, hd⟩
      · exact ih hw
      · cases hd

/-- The response payload of a byte sequence is as long as its result says (30_encoding.md R97). -/
theorem sequenceOf_length {scale : Nat} (h : scale ≤ 31) (range : Nat) (v : Bits) :
    (sequenceOf scale range v).2.length = (sequenceOf scale range v).1.toNat := by
  have hlt := uint_lt (v.take scale)
  have hle : 2 ^ (v.take scale).length ≤ 2 ^ 31 :=
    Nat.pow_le_pow_right (by decide) ((List.length_take_le _ _).trans h)
  simp only [sequenceOf, elementsOf_length, BitVec.toNat_ofNat]
  omega

theorem readValue_wellFormed {i : Instr} {s : State} (hl : s.legal i = true) (v : Bits) :
    (⟨.ok, (readValue i s.r.params v).1, (readValue i s.r.params v).2⟩ : Response).wellFormed =
      true := by
  rw [Response.wellFormed, Bool.or_eq_true, beq_iff_eq]
  cases i
  case rbytes => exact .inr (sequenceOf_length (sequence_bounds hl).2.1 _ v)
  case rstr => exact .inr (sequenceOf_length (sequence_bounds hl).2.1 _ v)
  case rascii => exact .inr (sequenceOf_length (sequence_bounds hl).2.1 _ v)
  all_goals exact .inl rfl

theorem unpackerBody_runs {i : Instr} {s : State} (he : i.engine = .unpacker)
    (hl : s.legal i = true) : s.r.Runs (unpackerBody i s.r.params s.r) where
  pulls := unpackerBody_pulls i _ _
  rst q h := by
    rw [unpackerBody_eq_takeAll he hl] at h
    rcases Run.bind_eq_halted h with h | ⟨v, q₁, -, hd⟩
    · exact takeAll_rst h
    · cases hd
  grounded hq := by
    rw [unpackerBody_eq_takeAll he hl]
    exact Run.bind_grounded (takeAll_grounded hq) fun _ _ h => h
  answer v q h := by
    rw [unpackerBody_eq_takeAll he hl] at h
    obtain ⟨w, q₁, -, hd⟩ := Run.bind_eq_done h
    cases hd
    exact readValue_wellFormed hl w

end Sys2Proof.Machine
end


section
/-! PROOFS. How a command ends, said once for each engine (30_encoding.md R103, 60_exceptions.md, 70
R292). -/

namespace Sys2Proof.Machine

/-- The engine after a `PACKER` command that has taken its payload and stands in `p`, its operands
legal or not, its pseudocode running as `x` (30_encoding.md R103, 60_exceptions.md, 70 R292). -/
inductive Packer.Ends (p : Packer) (legal : Bool) (x : Run Packer (BitVec 64)) : Packer → Prop
  | invalid (hcut : p.cut = none) (hl : legal = false) :
      Ends p legal x { p with response := some (.error .errValidation) }
  | unusable (hcut : p.cut = none) (hl : legal = true) (hu : p.usable = false) :
      Ends p legal x { p with response := some (.error .errState) }
  | done {v : BitVec 64} {p' : Packer} (hcut : p.cut = none) (hl : legal = true)
      (hx : x = .done v p') (hs : p.Sends p') :
      Ends p legal x { p' with response := some ⟨.ok, v, []⟩ }
  | io {p' : Packer} (hcut : p.cut = none) (hl : legal = true) (hx : x = .halted .io p')
      (hs : p.Sends p') :
      Ends p legal x { p'.latch with response := some (.error .errIo) }
  | reset {p' : Packer} (hcut : p.cut ≠ none) (hs : p.Sends p') : Ends p legal x p'.reset
  | ioReset {p' : Packer} (hcut : p.cut ≠ none) (hl : legal = true) (hx : x = .halted .io p')
      (hs : p.Sends p') : Ends p legal x p'.latch.reset

/-- The engine after an `UNPACKER` command in state `q` (as `Packer.Ends`). -/
inductive Unpacker.Ends (q : Unpacker) (legal : Bool) (x : Run Unpacker (BitVec 64 × List Byte)) :
    Unpacker → Prop
  | invalid (hcut : q.cut = none) (hl : legal = false) :
      Ends q legal x { q with response := some (.error .errValidation) }
  | unusable (hcut : q.cut = none) (hl : legal = true) (hu : q.usable = false) :
      Ends q legal x { q with response := some (.error .errState) }
  | done {v : BitVec 64 × List Byte} {q' : Unpacker} (hcut : q.cut = none) (hl : legal = true)
      (hx : x = .done v q') (hr : q.Runs x) :
      Ends q legal x { q' with response := some ⟨.ok, v.1, v.2⟩ }
  | io {q' : Unpacker} (hcut : q.cut = none) (hl : legal = true) (hx : x = .halted .io q')
      (hr : q.Runs x) :
      Ends q legal x { q'.latch with response := some (.error .errIo) }
  | reset {q' : Unpacker} (hcut : q.cut ≠ none) (hs : q.Pulls q') : Ends q legal x q'.reset
  | ioReset {q' : Unpacker} (hcut : q.cut ≠ none) (hl : legal = true) (hx : x = .halted .io q')
      (hr : q.Runs x) : Ends q legal x q'.latch.reset

/-- A command ends with its response, or with the reset that comes before it (70 R292). -/
theorem Packer.respond_ind {P : Packer → Prop} (p : Packer) (a : Response)
    (answered : p.cut = none → P { p with response := some a })
    (cut : p.cut ≠ none → P p.reset) : P (p.respond a) := by
  by_cases hc : p.cut = none
  · rw [p.respond_of_cut_none hc]
    exact answered hc
  · obtain ⟨k, hk⟩ := Option.ne_none_iff_exists'.mp hc
    rw [p.respond_of_cut_some hk]
    exact cut hc

/-- A command ends with its response, or with the reset that comes before it (70 R292). -/
theorem Unpacker.respond_ind {P : Unpacker → Prop} (q : Unpacker) (a : Response)
    (answered : q.cut = none → P { q with response := some a })
    (cut : q.cut ≠ none → P q.reset) : P (q.respond a) := by
  by_cases hc : q.cut = none
  · rw [q.respond_of_cut_none hc]
    exact answered hc
  · obtain ⟨k, hk⟩ := Option.ne_none_iff_exists'.mp hc
    rw [q.respond_of_cut_some hk]
    exact cut hc

/-- `PACKER` with `len` bytes taken off its payload port (30_encoding.md R96). -/
def Packer.dropPayload (len : Nat) (p : Packer) : Packer :=
  { p with payload := p.payload.drop len }

section
variable {len : Nat} {legal : Bool} {s t : State}

/-- A `PACKER` command that has a next state ends in one of these ways and changes nothing else. -/
theorem packerRun_ends {body : List Byte → Packer → Run Packer (BitVec 64)}
    (hb : legal = true → (s.w.dropPayload len).Runs
      (body (s.w.payload.take len) (s.w.dropPayload len)))
    (h : packerRun len legal body s = .next t) :
    ∃ w, t = { s with w := w } ∧ (s.w.dropPayload len).Ends legal
      (body (s.w.payload.take len) (s.w.dropPayload len)) w := by
  obtain ⟨hlen, hcut, rfl⟩ | ⟨-, p, rfl, ⟨rfl, rfl⟩ | ⟨rfl, hu, rfl⟩ | ⟨rfl, -, h⟩⟩ :=
    packerRun_next h
  · have hd : s.w.dropPayload len = { s.w with payload := [] } := by
      rw [Packer.dropPayload, List.drop_of_length_le hlen.le]
    rw [hd]
    exact ⟨_, rfl, .reset (Option.isSome_iff_ne_none.mp hcut) (.refl _)⟩
  · exact ⟨_, rfl, Packer.respond_ind (P := Packer.Ends _ _ _) _ _ (fun hc => .invalid hc rfl)
      fun hc => .reset hc (.refl _)⟩
  · exact ⟨_, rfl, Packer.respond_ind (P := Packer.Ends _ _ _) _ _ (fun hc => .unusable hc rfl hu)
      fun hc => .reset hc (.refl _)⟩
  · obtain ⟨hs, hr⟩ := hb rfl
    obtain ⟨v, p, hx, rfl⟩ | ⟨p, hx, rfl⟩ | ⟨p, hx, rfl⟩ := finishPacker_next h <;>
      change body _ (s.w.dropPayload len) = _ at hx <;> rw [hx] at hs <;>
      refine ⟨_, rfl, ?_⟩
    · exact Packer.respond_ind (P := Packer.Ends _ _ _) p _
        (fun hc => .done (hs.cut_none.mp hc) rfl hx hs)
        fun hc => .reset (hs.cut_none.not.mp hc) hs
    · exact Packer.respond_ind (P := Packer.Ends _ _ _) p.latch _
        (fun hc => .io (hs.cut_none.mp hc) rfl hx hs)
        fun hc => .ioReset (hs.cut_none.not.mp hc) rfl hx hs
    · have hc : p.cut ≠ none := by simp [hr p hx]
      exact .reset (hs.cut_none.not.mp hc) hs

/-- An `UNPACKER` command that has a next state ends in one of these ways, changing nothing else. -/
theorem unpackerRun_ends {body : Unpacker → Run Unpacker (BitVec 64 × List Byte)}
    (hb : legal = true → s.r.Runs (body s.r)) (h : unpackerRun legal body s = .next t) :
    ∃ r, t = { s with r := r } ∧ s.r.Ends legal (body s.r) r := by
  obtain ⟨rfl, rfl⟩ | ⟨rfl, hu, rfl⟩ | ⟨rfl, -, h⟩ := unpackerRun_next h
  · exact ⟨_, rfl, Unpacker.respond_ind (P := Unpacker.Ends _ _ _) _ _ (fun hc => .invalid hc rfl)
      fun hc => .reset hc (.refl _)⟩
  · exact ⟨_, rfl, Unpacker.respond_ind (P := Unpacker.Ends _ _ _) _ _
      (fun hc => .unusable hc rfl hu) fun hc => .reset hc (.refl _)⟩
  · have hr := hb rfl
    have hs := hr.pulls
    obtain ⟨v, q, hx, rfl⟩ | ⟨q, hx, rfl⟩ | ⟨q, hx, rfl⟩ := finishUnpacker_next h <;>
      rw [hx] at hs <;> refine ⟨_, rfl, ?_⟩
    · exact Unpacker.respond_ind (P := Unpacker.Ends _ _ _) q _
        (fun hc => .done (hs.cut_none.mp hc) rfl hx hr)
        fun hc => .reset (hs.cut_none.not.mp hc) hs
    · exact Unpacker.respond_ind (P := Unpacker.Ends _ _ _) q.latch _
        (fun hc => .io (hs.cut_none.mp hc) rfl hx hr)
        fun hc => .ioReset (hs.cut_none.not.mp hc) rfl hx hr
    · have hc : q.cut ≠ none := by simp [hr.rst q hx]
      exact .reset (hs.cut_none.not.mp hc) hs

end

/-- How a `PACKER` command ends that has a next state. -/
theorem exec_packer_ends {i : Instr} {s t : State} (he : i.engine = .packer)
    (h : exec i s = .next t) :
    ∃ w, t = { s with w := w } ∧ (s.w.dropPayload i.payloadLength).Ends (s.legal i)
      (packerBody i s.w.params (s.w.payload.take i.payloadLength)
        (s.w.dropPayload i.payloadLength)) w :=
  packerRun_ends (fun hl => packerBody_runs he hl _ rfl) (exec_packer s he ▸ h)

/-- How an `UNPACKER` command ends that has a next state. -/
theorem exec_unpacker_ends {i : Instr} {s t : State} (he : i.engine = .unpacker)
    (h : exec i s = .next t) :
    ∃ r, t = { s with r := r } ∧ s.r.Ends (s.legal i) (unpackerBody i s.r.params s.r) r :=
  unpackerRun_ends (unpackerBody_runs he) (exec_unpacker s he ▸ h)

/-- A `PACKER` command that was answered OK returned from its pseudocode. -/
theorem Packer.Ends.ok {p w : Packer} {legal : Bool} {x : Run Packer (BitVec 64)}
    {result : BitVec 64} {payload : List Byte} (h : p.Ends legal x w)
    (ha : w.response = some ⟨.ok, result, payload⟩) :
    legal = true ∧ payload = [] ∧
      ∃ p', x = .done result p' ∧ w = { p' with response := some ⟨.ok, result, []⟩ } := by
  cases h with
  | done _ hl hx => cases ha; exact ⟨hl, rfl, _, hx, rfl⟩
  | invalid => cases ha
  | unusable => cases ha
  | io => cases ha
  | reset => cases ha
  | ioReset => cases ha

/-- An `UNPACKER` command that was answered OK returned from its pseudocode. -/
theorem Unpacker.Ends.ok {q r : Unpacker} {legal : Bool} {x : Run Unpacker (BitVec 64 × List Byte)}
    {result : BitVec 64} {payload : List Byte} (h : q.Ends legal x r)
    (ha : r.response = some ⟨.ok, result, payload⟩) :
    legal = true ∧ ∃ q', x = .done (result, payload) q' ∧
      r = { q' with response := some ⟨.ok, result, payload⟩ } := by
  cases h with
  | done _ hl hx => cases ha; exact ⟨hl, _, hx, rfl⟩
  | invalid => cases ha
  | unusable => cases ha
  | io => cases ha
  | reset => cases ha
  | ioReset => cases ha

/-- A legal command on a usable `PACKER` with its payload at hand runs its body (30 R103). -/
theorem exec_packer_usable {i : Instr} {s : State} (he : i.engine = .packer) (hl : s.legal i = true)
    (hu : s.w.usable = true) (hlen : i.payloadLength ≤ s.w.payload.length) :
    exec i s = finishPacker (packerBody i s.w.params (s.w.payload.take i.payloadLength)
      (s.w.dropPayload i.payloadLength)) s := by
  rw [exec_packer s he, hl, packerRun_enough hlen]
  exact packerWork_usable hu

/-- A legal command on a usable `UNPACKER` runs its body (30 R103). -/
theorem exec_unpacker_usable {i : Instr} {s : State} (he : i.engine = .unpacker)
    (hl : s.legal i = true) (hu : s.r.usable = true) :
    exec i s = finishUnpacker (unpackerBody i s.r.params s.r) s := by
  rw [exec_unpacker s he, hl, unpackerRun_usable hu]

end Sys2Proof.Machine
end


section
/-! PROOFS. What a step does, said once (70_reset_and_hazards.md). -/

namespace Sys2Proof.Machine

/-- What one event of the host does to the machine `s` when the step has a next state. -/
inductive HostStep (s : State) : HostEvent → State → Prop
  | packer {word : CommandWord} {payload : List Byte} {rst : Option Nat} {len : Nat} {legal : Bool}
      {x : Run Packer (BitVec 64)} {w : Packer}
      (h : ((s.acceptPacker payload rst).w.dropPayload len).Ends legal x w) :
      HostStep s (.packerCommand word payload rst) { s with w := w }
  | unpacker {word : CommandWord} {rst : Option Nat} {legal : Bool}
      {x : Run Unpacker (BitVec 64 × List Byte)} {r : Unpacker}
      (h : (s.acceptUnpacker rst).r.Ends legal x r) :
      HostStep s (.unpackerCommand word rst) { s with r := r }
  | takeResponse (e : Engine) : HostStep s (.takeResponse e) (s.takeResponse e)
  | reset (e : Engine) : HostStep s (.reset e) (s.resetEngine e)
  | bound (e : Engine) (level : Bool) : HostStep s (.bound e level) (s.drive e level)
  | attachSource (bytes : List Byte) : HostStep s (.attachSource bytes) (s.attachSource bytes)

theorem decodeFor_ok {e : Engine} {word : CommandWord} {boundaryW : Nat} {i : Instr}
    (h : decodeFor e word boundaryW = .ok i) : i.engine = e := by
  unfold decodeFor at h
  split at h
  · split at h
    · next he => cases h; exact he
    · cases h
  · cases h

/-- The outcome of a step, as fetched. -/
def Fetched.outcome : Fetched → Host.Outcome State Fault Refusal
  | .over o => o
  | .run i s => exec i s

theorem step_nil {s : State} (h : s.host = []) : step s = .next s := by
  simp [step, fetch, h]

theorem step_cons {s : State} {ev : HostEvent} {rest : List HostEvent} (h : s.host = ev :: rest) :
    step s = (handle ev { s with host := rest }).outcome := by
  rw [step, fetch, h]
  rfl

theorem fetchPacker_hostStep {word : CommandWord} {payload : List Byte} {rst : Option Nat}
    {s t : State} (h : (fetchPacker word payload rst s).outcome = .next t) :
    HostStep s (.packerCommand word payload rst) t := by
  unfold fetchPacker at h
  split at h
  · cases h
  · split at h
    · next i hd =>
      obtain ⟨w, rfl, hw⟩ := exec_packer_ends (decodeFor_ok hd) h
      exact .packer hw
    · rw [Fetched.outcome, illegalPacker] at h
      obtain ⟨w, rfl, hw⟩ := packerRun_ends (fun hl => by cases hl) h
      exact .packer hw

theorem fetchUnpacker_hostStep {word : CommandWord} {rst : Option Nat} {s t : State}
    (h : (fetchUnpacker word rst s).outcome = .next t) :
    HostStep s (.unpackerCommand word rst) t := by
  unfold fetchUnpacker at h
  split at h
  · cases h
  · split at h
    · next i hd =>
      obtain ⟨r, rfl, hr⟩ := exec_unpacker_ends (decodeFor_ok hd) h
      exact .unpacker hr
    · rw [Fetched.outcome, illegalUnpacker] at h
      obtain ⟨r, rfl, hr⟩ := unpackerRun_ends (fun hl => by cases hl) h
      exact .unpacker hr

/-- Everything a step can do that has a next state. -/
theorem step_next {s t : State} (h : step s = .next t) :
    s.host = [] ∧ t = s ∨
    ∃ ev rest, s.host = ev :: rest ∧ HostStep { s with host := rest } ev t := by
  cases hh : s.host with
  | nil =>
    rw [step_nil hh] at h
    cases h
    exact .inl ⟨rfl, rfl⟩
  | cons ev rest =>
    refine .inr ⟨ev, rest, rfl, ?_⟩
    rw [step_cons hh] at h
    cases ev with
    | packerCommand word payload rst => exact fetchPacker_hostStep h
    | unpackerCommand word rst => exact fetchUnpacker_hostStep h
    | takeResponse e => cases h; exact .takeResponse e
    | reset e => cases h; exact .reset e
    | bound e level => cases h; exact .bound e level
    | attachSource bytes => cases h; exact .attachSource bytes

end Sys2Proof.Machine
end


section
/-! PROOFS. The invariant, at reset and after every step (10_state.md R23, R26, R37, R39). -/

namespace Sys2Proof.Machine

theorem Packer.inv_iff {p : Packer} : p.inv = true ↔
    p.count < 2 ^ p.params.cntW ∧ p.count ≤ p.sink.length ∧ p.cut = none ∧
      ∀ a, p.response = some a → a.wellFormed = true ∧ a.payload = [] := by
  unfold Packer.inv
  cases p.response <;> simp [and_assoc]

theorem Unpacker.inv_iff {q : Unpacker} : q.inv = true ↔
    q.count < 2 ^ q.params.cntW ∧ (q.faulted = true ∨ q.Grounded) ∧ q.cut = none ∧
      ∀ a, q.response = some a → a.wellFormed = true := by
  unfold Unpacker.inv Unpacker.Grounded
  cases q.response <;> simp [and_assoc, or_assoc]

theorem State.inv_iff {s : State} : s.inv = true ↔ s.w.inv = true ∧ s.r.inv = true := by
  rw [State.inv, Bool.and_eq_true]

theorem Packer.reset_inv (p : Packer) : p.reset.inv = true :=
  Packer.inv_iff.mpr ⟨Nat.two_pow_pos _, Nat.zero_le _, rfl, fun _ h => by cases h⟩

theorem Unpacker.reset_inv (q : Unpacker) : q.reset.inv = true :=
  Unpacker.inv_iff.mpr ⟨Nat.two_pow_pos _, .inr (.inl rfl), rfl, fun _ h => by cases h⟩

theorem Packer.Sends.count_le {p p' : Packer} (h : p.Sends p') (hc : p.count ≤ p.sink.length) :
    p'.count ≤ p'.sink.length := by
  obtain ⟨new, hs, hk⟩ := h.sent
  rw [hs, hk, List.length_append]
  omega

/-- However a `PACKER` command ends, the engine meets the invariant if its counter did. -/
theorem Packer.Ends.inv {p w : Packer} {legal : Bool} {x : Run Packer (BitVec 64)}
    (h : p.Ends legal x w) (hroom : p.count < 2 ^ p.params.cntW)
    (hcount : p.count ≤ p.sink.length) : w.inv = true := by
  cases h with
  | invalid hcut =>
    exact Packer.inv_iff.mpr ⟨hroom, hcount, hcut, fun _ e => by cases e; exact ⟨rfl, rfl⟩⟩
  | unusable hcut =>
    exact Packer.inv_iff.mpr ⟨hroom, hcount, hcut, fun _ e => by cases e; exact ⟨rfl, rfl⟩⟩
  | done hcut hl hx hs =>
    exact Packer.inv_iff.mpr ⟨hs.room hroom, hs.count_le hcount, hs.cut_none.mpr hcut,
      fun _ e => by cases e; exact ⟨rfl, rfl⟩⟩
  | io hcut hl hx hs =>
    exact Packer.inv_iff.mpr ⟨hs.room hroom, hs.count_le hcount, hs.cut_none.mpr hcut,
      fun _ e => by cases e; exact ⟨rfl, rfl⟩⟩
  | reset => exact Packer.reset_inv _
  | ioReset => exact Packer.reset_inv _

/-- However an `UNPACKER` command ends, the engine meets the invariant if its registers did. -/
theorem Unpacker.Ends.inv {q r : Unpacker} {legal : Bool} {x : Run Unpacker (BitVec 64 × List Byte)}
    (h : q.Ends legal x r) (hroom : q.count < 2 ^ q.params.cntW)
    (hground : q.faulted = true ∨ q.Grounded) : r.inv = true := by
  cases h with
  | invalid hcut =>
    exact Unpacker.inv_iff.mpr ⟨hroom, hground, hcut, fun _ e => by cases e; rfl⟩
  | unusable hcut =>
    exact Unpacker.inv_iff.mpr ⟨hroom, hground, hcut, fun _ e => by cases e; rfl⟩
  | done hcut hl hx hr =>
    subst hx
    have hs := hr.pulls
    exact Unpacker.inv_iff.mpr ⟨hs.room hroom, hground.imp hs.faulted.trans hr.grounded,
      hs.cut_none.mpr hcut, fun _ e => by cases e; exact hr.answer _ _ rfl⟩
  | io hcut hl hx hr =>
    subst hx
    have hs := hr.pulls
    exact Unpacker.inv_iff.mpr ⟨hs.room hroom, .inl rfl, hs.cut_none.mpr hcut,
      fun _ e => by cases e; rfl⟩
  | reset => exact Unpacker.reset_inv _
  | ioReset => exact Unpacker.reset_inv _

/-- What an event of the host does keeps the invariant of both engines. -/
theorem HostStep.inv {s t : State} {ev : HostEvent} (h : HostStep s ev t) (hs : s.inv = true) :
    t.inv = true := by
  obtain ⟨hw, hr⟩ := State.inv_iff.mp hs
  obtain ⟨hwroom, hwcount, hwcut, hwresp⟩ := Packer.inv_iff.mp hw
  obtain ⟨hrroom, hrground, hrcut, hrresp⟩ := Unpacker.inv_iff.mp hr
  have hwfree : ({ s.w with response := none } : Packer).inv = true :=
    Packer.inv_iff.mpr ⟨hwroom, hwcount, hwcut, fun _ e => by cases e⟩
  have hrfree : ({ s.r with response := none } : Unpacker).inv = true :=
    Unpacker.inv_iff.mpr ⟨hrroom, hrground, hrcut, fun _ e => by cases e⟩
  cases h with
  | packer h => exact State.inv_iff.mpr ⟨h.inv hwroom hwcount, hr⟩
  | unpacker h => exact State.inv_iff.mpr ⟨hw, h.inv hrroom hrground⟩
  | takeResponse e => cases e with
    | packer => exact State.inv_iff.mpr ⟨hwfree, hr⟩
    | unpacker => exact State.inv_iff.mpr ⟨hw, hrfree⟩
  | reset e => cases e with
    | packer => exact State.inv_iff.mpr ⟨Packer.reset_inv _, hr⟩
    | unpacker => exact State.inv_iff.mpr ⟨hw, Unpacker.reset_inv _⟩
  | bound e level => cases e <;> exact hs
  | attachSource bytes => exact hs

/-- Settles O11: the step's event keeps the invariant, whatever the event is. -/
theorem stepKeepsTheInvariant : Obligations.StepKeepsTheInvariant := by
  intro s t hs h
  obtain ⟨-, rfl⟩ | ⟨ev, rest, -, ht⟩ := step_next h
  · exact hs
  · exact ht.inv hs

/-- Settles O10: each register is read off, and the invariant is evaluated. -/
theorem invariantHoldsAtReset : Obligations.InvariantHoldsAtReset :=
  ⟨rfl, rfl, rfl, rfl, rfl, rfl, rfl, rfl, by decide⟩

end Sys2Proof.Machine
end


section
/-! PROOFS. What the host's events and the commands leave alone (10_state.md R29, R31; 70 R293,
R304). -/

namespace Sys2Proof.Machine

/-! ## The faulted flag -/

/-- A `PACKER` command without `rst` does not clear `faulted` (10_state.md R29). -/
theorem Packer.Ends.faulted {p w : Packer} {legal : Bool} {x : Run Packer (BitVec 64)}
    (h : p.Ends legal x w) (hcut : p.cut = none) (hf : p.faulted = true) : w.faulted = true := by
  cases h with
  | invalid => exact hf
  | unusable => exact hf
  | done hcut hl hx hs => exact hs.faulted.trans hf
  | io => rfl
  | reset hc => exact absurd hcut hc
  | ioReset hc => exact absurd hcut hc

/-- An `UNPACKER` command without `rst` does not clear `faulted` (10_state.md R29). -/
theorem Unpacker.Ends.faulted {q r : Unpacker} {legal : Bool}
    {x : Run Unpacker (BitVec 64 × List Byte)} (h : q.Ends legal x r) (hcut : q.cut = none)
    (hf : q.faulted = true) : r.faulted = true := by
  cases h with
  | invalid => exact hf
  | unusable => exact hf
  | done hcut hl hx hr =>
    subst hx
    exact hr.pulls.faulted.trans hf
  | io => rfl
  | reset hc => exact absurd hcut hc
  | ioReset hc => exact absurd hcut hc

/-- Which events clear `faulted` of `PACKER` (10_state.md R29). -/
theorem HostStep.clears_packer {s t : State} {ev : HostEvent} (h : HostStep s ev t)
    (hs : s.w.faulted = true) (ht : t.w.faulted = false) :
    ev = .reset .packer ∨ ∃ word payload k, ev = .packerCommand word payload (some k) := by
  cases h with
  | @packer word payload rst _ _ _ _ h => cases rst with
    | none => exact absurd (h.faulted rfl hs) (by simpa using ht)
    | some k => exact .inr ⟨word, payload, k, rfl⟩
  | reset e => cases e with
    | packer => exact .inl rfl
    | unpacker => exact absurd hs (by simpa using ht)
  | unpacker h => exact absurd hs (by simpa using ht)
  | takeResponse e => cases e <;> exact absurd hs (by simpa using ht)
  | bound e level => cases e <;> exact absurd hs (by simpa using ht)
  | attachSource bytes => exact absurd hs (by simpa using ht)

/-- Which events clear `faulted` of `UNPACKER` (10_state.md R29). -/
theorem HostStep.clears_unpacker {s t : State} {ev : HostEvent} (h : HostStep s ev t)
    (hs : s.r.faulted = true) (ht : t.r.faulted = false) :
    ev = .reset .unpacker ∨ ∃ word k, ev = .unpackerCommand word (some k) := by
  cases h with
  | @unpacker word rst _ _ _ h => cases rst with
    | none => exact absurd (h.faulted rfl hs) (by simpa using ht)
    | some k => exact .inr ⟨word, k, rfl⟩
  | reset e => cases e with
    | packer => exact absurd hs (by simpa using ht)
    | unpacker => exact .inl rfl
  | packer h => exact absurd hs (by simpa using ht)
  | takeResponse e => cases e <;> exact absurd hs (by simpa using ht)
  | bound e level => cases e <;> exact absurd hs (by simpa using ht)
  | attachSource bytes => exact absurd hs (by simpa using ht)

/-- Settles O12: no other event clears the flag. -/
theorem onlyResetClearsFaulted : Obligations.OnlyResetClearsFaulted := by
  intro s t h
  obtain ⟨-, rfl⟩ | ⟨ev, rest, hev, hstep⟩ := step_next h
  · exact ⟨fun hs ht => absurd hs (by simp [ht]), fun hs ht => absurd hs (by simp [ht])⟩
  · refine ⟨fun hs ht => ?_, fun hs ht => ?_⟩
    · obtain rfl | ⟨word, payload, k, rfl⟩ := hstep.clears_packer hs ht
      · exact .inl ⟨rest, hev⟩
      · exact .inr ⟨word, payload, k, rest, hev⟩
    · obtain rfl | ⟨word, k, rfl⟩ := hstep.clears_unpacker hs ht
      · exact .inl ⟨rest, hev⟩
      · exact .inr ⟨word, k, rest, hev⟩

/-! ## The frame of a command -/

/-- Settles O46: each way a command can end keeps the frame. -/
theorem packerCommandFrame : Obligations.PackerCommandFrame := by
  intro i s t he hcut h
  obtain ⟨w, rfl, hw⟩ := exec_packer_ends he h
  cases hw with
  | invalid =>
    exact ⟨rfl, rfl, rfl, rfl, hcut, rfl, ⟨[], (List.append_nil _).symm, rfl⟩, fun _ => ⟨rfl, rfl⟩⟩
  | unusable =>
    exact ⟨rfl, rfl, rfl, rfl, hcut, rfl, ⟨[], (List.append_nil _).symm, rfl⟩, fun _ => ⟨rfl, rfl⟩⟩
  | done _ _ _ hs =>
    exact ⟨rfl, rfl, hs.bound, hs.params, hs.cut_none.mpr hcut, hs.payload, hs.sent,
      fun _ => ⟨hs.faulted, hs.draws⟩⟩
  | io _ _ _ hs =>
    exact ⟨rfl, rfl, hs.bound, hs.params, hs.cut_none.mpr hcut, hs.payload, hs.sent,
      fun hne => absurd rfl hne⟩
  | reset hc => exact absurd hcut hc
  | ioReset hc => exact absurd hcut hc

/-- Settles O47: each way a command can end keeps the frame. -/
theorem unpackerCommandFrame : Obligations.UnpackerCommandFrame := by
  intro i s t he hcut h
  obtain ⟨r, rfl, hr⟩ := exec_unpacker_ends he h
  cases hr with
  | invalid =>
    exact ⟨rfl, rfl, rfl, rfl, hcut, ⟨[], rfl, rfl⟩, fun _ => ⟨rfl, rfl⟩⟩
  | unusable =>
    exact ⟨rfl, rfl, rfl, rfl, hcut, ⟨[], rfl, rfl⟩, fun _ => ⟨rfl, rfl⟩⟩
  | done _ _ hx hr =>
    have hs := hx ▸ hr.pulls
    exact ⟨rfl, rfl, hs.bound, hs.params, hs.cut_none.mpr hcut, hs.pulled,
      fun _ => ⟨hs.faulted, hs.draws⟩⟩
  | io _ _ hx hr =>
    have hs := hx ▸ hr.pulls
    exact ⟨rfl, rfl, hs.bound, hs.params, hs.cut_none.mpr hcut, hs.pulled,
      fun hne => absurd rfl hne⟩
  | reset hc => exact absurd hcut hc
  | ioReset hc => exact absurd hcut hc

/-! ## Host events -/

/-- Settles O8. -/
theorem hostEventsChangeWhatTheyName : Obligations.HostEventsChangeWhatTheyName := by
  intro s rest
  exact ⟨fun level h => step_cons h, fun level h => step_cons h, fun h => step_cons h,
    fun h => step_cons h, fun bytes h => step_cons h, step_nil⟩

end Sys2Proof.Machine
end


section
/-! PROOFS. The stream position (10_state.md R34). -/

namespace Sys2Proof.Machine

@[simp] theorem Packer.commandBits_dropPayload (i : Instr) (d : List Byte) (n : Nat) (p : Packer) :
    (p.dropPayload n).commandBits i d = p.commandBits i d := by
  cases i <;> rfl

/-- Settles O54: the command's body emits or takes its bits, and the position law counts them. -/
theorem streamPositionAdvancesByTheBits : Obligations.StreamPositionAdvancesByTheBits := by
  intro i s t result payload h
  refine ⟨fun he _ ha => ?_, fun he _ ha => ?_⟩
  · obtain ⟨w, rfl, hw⟩ := exec_packer_ends he h
    obtain ⟨hl, -, p', hx, rfl⟩ := hw.ok ha
    have hwritten := (packerBody_emits he hl _ (p := s.w.dropPayload _) rfl).written hx
    rw [Packer.commandBits_dropPayload] at hwritten
    exact hwritten.position
  · obtain ⟨r, rfl, hr⟩ := exec_unpacker_ends he h
    obtain ⟨hl, q', hx, rfl⟩ := hr.ok ha
    rw [unpackerBody_eq_takeAll he hl] at hx
    obtain ⟨v, q₁, htake, hd⟩ := Run.bind_eq_done hx
    obtain ⟨-, rfl⟩ := Run.done.inj hd
    exact (takeAll_consumed htake).position

end Sys2Proof.Machine
end


section
/-! PROOFS. Runs whose transfers are answered, and the transfer at a full counter (10 R39). -/

namespace Sys2Proof.Machine

/-- A run that was not cut short keeps `cut` clear. -/
theorem Packer.Written.clear {v : Bits} {p p' : Packer} (hc : p.cut = none) (hs : p.Sends p')
    (h : p.Written v { p' with cut := p.cut }) : p.Written v p' := by
  rw [hc, ← hs.cut_none.mpr hc] at h
  exact h

theorem Unpacker.Consumed.clear {n : Nat} {q q' : Unpacker} (hc : q.cut = none) (hs : q.Pulls q')
    (h : q.Consumed n { q' with cut := q.cut }) : q.Consumed n q' := by
  rw [hc, ← hs.cut_none.mpr hc] at h
  exact h

theorem wPlace_one_ready (b : Bool) {p : Packer} (hc : p.cut = none)
    (ho : p.answers.okFor (p.puts 1) = true) (hr : p.count + p.puts 1 < 2 ^ p.params.cntW) :
    ∃ p', wPlace [b] p = .done () p' ∧ p.Written [b] p' := by
  have hdone : ∃ p', wPlace [b] p = .done () p' := by
    obtain ⟨-, e⟩ | ⟨h7, e⟩ := wPlace_one b p
    · exact ⟨_, e⟩
    · have hp : p.puts 1 = 1 := by simp [Packer.puts, h7]
      rw [hp] at ho hr
      have hput := Packer.sinkPut_answered (byteOf (p.pending ++ [b]))
        (p := { p with partialByte := byteOf (p.pending ++ [b]), cursor := 0#3 }) hc
        ((Oracle.okFor_one _).mp ho)
      rw [if_pos hr] at hput
      exact ⟨_, e.trans hput⟩
  obtain ⟨p', e⟩ := hdone
  have hs := wPlace_sends [b] p
  rw [e] at hs
  exact ⟨p', e, (wPlace_one_written e).clear hc hs⟩

/-- An emission whose transfers are all answered returns (41 R136). -/
theorem emitAll_ready {v : Bits} {p : Packer} (hc : p.cut = none)
    (ho : p.answers.okFor (p.puts v.length) = true)
    (hr : p.count + p.puts v.length < 2 ^ p.params.cntW) :
    ∃ p', emitAll v p = .done () p' ∧ p.Written v p' := by
  induction v generalizing p with
  | nil => exact ⟨p, rfl, .refl p⟩
  | cons b v ih =>
    obtain ⟨k, hk⟩ : ∃ k, p.puts (1 + v.length) = p.puts 1 + k :=
      Nat.exists_eq_add_of_le (Nat.div_le_div_right (by omega))
    rw [List.length_cons, Nat.add_comm v.length, hk] at ho hr
    rw [Oracle.okFor_add, Bool.and_eq_true] at ho
    obtain ⟨p₁, e₁, h₁⟩ := wPlace_one_ready b hc ho.1 (by omega)
    have ⟨hc₁, hk₁, _, _, ha₁, _, _, hcut₁, _, hp₁⟩ := h₁
    obtain rfl : k = p₁.puts v.length := by
      rw [Packer.puts_add 1 _ hc₁] at hk
      omega
    obtain ⟨p₂, e₂, h₂⟩ := ih (hcut₁.trans hc) (by rw [ha₁]; exact ho.2)
      (by rw [hk₁, hp₁, Nat.add_assoc]; exact hr)
    exact ⟨p₂, by rw [emitAll, e₁]; exact e₂, h₁.trans h₂⟩

/-- With `k` transfers answered, an emission that makes more comes to the bit that completes the
next byte (41 R136). -/
theorem emitAll_reaches {v : Bits} {p : Packer} {k : Nat} (hk : k < p.puts v.length)
    (hc : p.cut = none) (ho : p.answers.okFor k = true) (hr : p.count + k < 2 ^ p.params.cntW) :
    ∃ v₁ b v₂ p', v = v₁ ++ b :: v₂ ∧ p.puts v₁.length = k ∧ emitAll v₁ p = .done () p' ∧
      p.Written v₁ p' ∧ p'.cursor.toNat = 7 := by
  have hlt := p.cursor.isLt
  obtain ⟨m, hm⟩ : ∃ m, m = 8 * k + 7 - p.cursor.toNat := ⟨_, rfl⟩
  have hmv : m < v.length := by
    unfold Packer.puts at hk
    omega
  have hlen : (v.take m).length = m := List.length_take_of_le hmv.le
  have hput : p.puts (v.take m).length = k := by
    rw [hlen, Packer.puts]
    omega
  obtain ⟨p', he, hw⟩ := emitAll_ready (v := v.take m) hc (hput ▸ ho) (hput ▸ hr)
  refine ⟨v.take m, v[m], v.drop (m + 1), p', ?_, hput, he, hw, ?_⟩
  · rw [List.getElem_cons_drop, List.take_append_drop]
  · have hcur := hw.1
    rw [hlen] at hcur
    omega

/-- An answered transfer at the last value of the counter ends the emission (10_state.md R39). -/
theorem emitAll_full {v : Bits} {p : Packer} {k : Nat} (hk : k < p.puts v.length)
    (hc : p.cut = none) (ho : p.answers.okFor (k + 1) = true)
    (hr : p.count + k = 2 ^ p.params.cntW - 1) : ∃ t, emitAll v p = .halted .overflow t := by
  have hpos := Nat.two_pow_pos p.params.cntW
  rw [Oracle.okFor_add, Bool.and_eq_true] at ho
  obtain ⟨v₁, b, v₂, p', rfl, rfl, he, hw, h7⟩ := emitAll_reaches hk hc ho.1 (by omega)
  obtain ⟨-, hk', -, -, ha', -, -, hc', -, hp'⟩ := hw
  obtain ⟨h, -⟩ | ⟨-, e⟩ := wPlace_one b p'
  · omega
  · have hput := Packer.sinkPut_answered (byteOf (p'.pending ++ [b]))
      (p := { p' with partialByte := byteOf (p'.pending ++ [b]), cursor := 0#3 }) (hc'.trans hc)
      (ha' ▸ (Oracle.okFor_one _).mp ho.2)
    rw [if_neg (by simp only [hk', hp']; omega)] at hput
    rw [emitAll_append, he, Run.bind_done, emitAll, e, hput]
    exact ⟨_, rfl⟩

theorem rTake_one_ready {q : Unpacker} (hc : q.cut = none) (hs : q.gets 1 ≤ q.source.length)
    (ho : q.answers.okFor (q.gets 1) = true) (hr : q.count + q.gets 1 < 2 ^ q.params.cntW) :
    ∃ v q', rTake 1 q = .done v q' ∧ q.Consumed 1 q' := by
  have hdone : ∃ v q', rTake 1 q = .done v q' := by
    rw [rTake]
    split
    · next h0 =>
      have hg : q.gets 1 = 1 := by simp [Unpacker.gets, h0]
      rw [hg] at hs ho hr
      obtain ⟨b, rest, hsrc⟩ := List.exists_cons_of_length_pos hs
      rw [Unpacker.srcGet_answered hc ((Oracle.okFor_one _).mp ho) hsrc, if_pos hr]
      exact ⟨_, _, rfl⟩
    · exact ⟨_, _, rfl⟩
  obtain ⟨v, q', e⟩ := hdone
  have hp := rTake_pulls 1 q
  rw [e] at hp
  exact ⟨v, q', e, (rTake_one_consumed e).clear hc hp⟩

/-- A reading whose transfers are all answered, the source having the bytes, returns (42 R174). -/
theorem takeAll_ready {n : Nat} {q : Unpacker} (hc : q.cut = none) (hs : q.gets n ≤ q.source.length)
    (ho : q.answers.okFor (q.gets n) = true) (hr : q.count + q.gets n < 2 ^ q.params.cntW) :
    ∃ v q', takeAll n q = .done v q' ∧ q.Consumed n q' := by
  induction n generalizing q with
  | zero => exact ⟨_, q, rfl, .refl q⟩
  | succ n ih =>
    obtain ⟨k, hk⟩ : ∃ k, q.gets (1 + n) = q.gets 1 + k :=
      Nat.exists_eq_add_of_le (Nat.sub_le_sub_right (Nat.div_le_div_right (by omega)) _)
    rw [Nat.add_comm n, hk] at hs ho hr
    rw [Oracle.okFor_add, Bool.and_eq_true] at ho
    obtain ⟨b, q₁, e₁, h₁⟩ := rTake_one_ready hc (by omega) ho.1 (by omega)
    have ⟨hc₁, hk₁, hs₁, _, _, ha₁, _, _, hcut₁, _, hp₁⟩ := h₁
    obtain rfl : k = q₁.gets n := by
      rw [Unpacker.gets_add 1 _ hc₁] at hk
      omega
    obtain ⟨v, q₂, e₂, h₂⟩ := ih (hcut₁.trans hc) (by rw [hs₁, List.length_drop]; omega)
      (by rw [ha₁]; exact ho.2) (by rw [hk₁, hp₁, Nat.add_assoc]; exact hr)
    refine ⟨b ++ v, q₂, by rw [takeAll, e₁, Run.bind_done, e₂]; rfl, ?_⟩
    rw [Nat.add_comm]
    exact h₁.trans h₂

/-- With `k` transfers answered, a reading that makes more comes to the request of the next byte
(42 R174). -/
theorem takeAll_reaches {n k : Nat} {q : Unpacker} (hk : k < q.gets n) (hc : q.cut = none)
    (hs : k ≤ q.source.length) (ho : q.answers.okFor k = true)
    (hr : q.count + k < 2 ^ q.params.cntW) :
    ∃ m v q', m < n ∧ q.gets m = k ∧ takeAll m q = .done v q' ∧ q.Consumed m q' ∧
      q'.cursor = 0#3 := by
  have hlt := q.cursor.isLt
  obtain ⟨m, hm⟩ : ∃ m, m = 8 * k + if q.cursor.toNat > 0 then 8 - q.cursor.toNat else 0 :=
    ⟨_, rfl⟩
  have hg : q.gets m = k := by
    rw [hm, Unpacker.gets]
    split <;> omega
  have hmn : m < n := by
    rw [hm]
    unfold Unpacker.gets at hk
    split <;> split at hk <;> omega
  obtain ⟨v, q', e, h⟩ := takeAll_ready hc (hg ▸ hs) (hg ▸ ho) (hg ▸ hr)
  refine ⟨m, v, q', hmn, hg, e, h, BitVec.eq_of_toNat_eq ?_⟩
  rw [h.1, hm]
  split <;> simp <;> omega

/-- An answered transfer at the last value of the counter ends the reading (10_state.md R39). -/
theorem takeAll_full {n k : Nat} {q : Unpacker} (hk : k < q.gets n) (hc : q.cut = none)
    (hs : k < q.source.length) (ho : q.answers.okFor (k + 1) = true)
    (hr : q.count + k = 2 ^ q.params.cntW - 1) : ∃ t, takeAll n q = .halted .overflow t := by
  have hpos := Nat.two_pow_pos q.params.cntW
  rw [Oracle.okFor_add, Bool.and_eq_true] at ho
  obtain ⟨m, v, q', hmn, rfl, e, h, h0⟩ := takeAll_reaches hk hc hs.le ho.1 (by omega)
  obtain ⟨-, hk', hs', -, -, ha', -, -, hc', -, hp'⟩ := h
  obtain ⟨b, rest, hsrc⟩ := List.exists_cons_of_length_pos (l := q'.source)
    (by rw [hs', List.length_drop]; omega)
  have hget := Unpacker.srcGet_answered (hc'.trans hc) (ha' ▸ (Oracle.okFor_one _).mp ho.2) hsrc
  rw [if_neg (by rw [hk', hp']; omega)] at hget
  obtain ⟨l, rfl⟩ := Nat.exists_eq_add_of_lt hmn
  rw [Nat.add_assoc, takeAll_add, e, Run.bind_done, takeAll, rTake, if_pos h0, hget]
  exact ⟨_, rfl⟩

/-! ## A full counter -/

/-- Settles O49: the run of the body halts at the transfer that would pass the last value. -/
theorem fullCounterRefusesTheCommand : Obligations.FullCounterRefusesTheCommand := by
  intro i s k hl
  refine ⟨fun bits he hu hc hlen hbits hk ho hr => ?_, fun he hu hc hk hs ho hr => ?_⟩
  · obtain ⟨t, ht⟩ := emitAll_full (p := s.w.dropPayload i.payloadLength) hk hc ho hr
    have hemits := packerBody_emits he hl (s.w.payload.take i.payloadLength)
      (p := s.w.dropPayload i.payloadLength) rfl
    rw [Packer.commandBits_dropPayload, ← hbits] at hemits
    obtain ⟨t', hx⟩ := hemits.halted ht
    rw [exec_packer_usable he hl hu hlen, hx]
    rfl
  · obtain ⟨t, ht⟩ := takeAll_full hk hc hs ho hr
    rw [exec_unpacker_usable he hl hu, unpackerBody_eq_takeAll he hl, ht]
    rfl

end Sys2Proof.Machine
end


section
/-! PROOFS. The two transfers as the spec's procedures state them (20_memory.md R52, R55). -/

namespace Sys2Proof.Machine

/-- With no `rst` to come, an accepted byte changes no more than R52 says. -/
theorem Packer.accept_of_cut_none {p : Packer} (b : Byte) (o : Oracle) (hc : p.cut = none) :
    p.accept b o = { p with answers := o, sink := p.sink ++ [b], count := p.count + 1 } := by
  rw [Packer.accept, hc, countdown_none]

/-- With no `rst` to come, a delivered byte changes no more than R55 says. -/
theorem Unpacker.deliver_of_cut_none {q : Unpacker} (b : Byte) (rest : List Byte) (o : Oracle)
    (hc : q.cut = none) :
    q.deliver b rest o =
      { q with answers := o, source := rest, count := q.count + 1, partialByte := b } := by
  rw [Unpacker.deliver, hc, countdown_none]

/-- A refused offer ends the procedure with ERR_IO (20_memory.md R52). -/
theorem Packer.sinkPut_refused {p : Packer} {o : Oracle} (b : Byte) (hc : p.cut = none)
    (ha : p.answers.next = (.fail, o)) : p.sinkPut b = .halted .io { p with answers := o } := by
  simp [Packer.sinkPut, hc, ha]

/-- A request that fails, or that is answered on an empty `SRC`, ends the procedure with ERR_IO
(20_memory.md R55). -/
theorem Unpacker.srcGet_refused {q : Unpacker} {o : Oracle} (hc : q.cut = none)
    (ha : q.answers.next = (.fail, o) ∨ q.answers.next = (.ok, o) ∧ q.source = []) :
    q.srcGet = .halted .io { q with answers := o } := by
  rcases ha with ha | ⟨ha, hs⟩
  · simp [Unpacker.srcGet, hc, ha]
  · simp [Unpacker.srcGet, hc, ha, hs]

/-- Settles O14, by the sink's two answers. -/
theorem sinkPutAppendsAcceptedByte : Obligations.SinkPutAppendsAcceptedByte := by
  intro b p o hc
  refine ⟨fun ho hr => ?_, Packer.sinkPut_refused b hc⟩
  rw [Packer.sinkPut_answered b hc (by rw [ho]), if_pos hr, ho, Packer.accept_of_cut_none b o hc]

/-- Settles O15, by the source's two answers and whether `SRC` holds a byte. -/
theorem srcGetConsumesDeliveredByte : Obligations.SrcGetConsumesDeliveredByte := by
  intro b rest q o hc
  refine ⟨fun ho hs hr => ?_, fun ho hs => Unpacker.srcGet_refused hc (.inr ⟨ho, hs⟩),
    fun ho => Unpacker.srcGet_refused hc (.inl ho)⟩
  rw [Unpacker.srcGet_answered hc (by rw [ho]) hs, if_pos hr, ho,
    Unpacker.deliver_of_cut_none b rest o hc]

end Sys2Proof.Machine
end


section
/-! PROOFS. The reader never looks ahead (20_memory.md R66): a reading that returns does the same with any
other bytes behind those it pulled. -/

namespace Sys2Proof.Machine

/-- If `f` returns from `q`, it has taken some bytes off `SRC` and counted them, and it returns the same
with any other bytes behind these. -/
def SeesOnlyPulled {α : Type} (f : Unpacker → Run Unpacker α) (q : Unpacker) : Prop :=
  ∀ a q', f q = .done a q' → ∃ gone, q.source = gone ++ q'.source ∧
    q'.count = q.count + gone.length ∧
    ∀ other, f { q with source := gone ++ other } = .done a { q' with source := other }

section
variable {α β : Type}

/-- What takes no byte and returns without a look at `SRC` sees no byte of it. -/
theorem SeesOnlyPulled.of_done {f : Unpacker → Run Unpacker α} {q q' : Unpacker} {a : α}
    (hk : q'.count = q.count) (h : ∀ l, f { q with source := l } = .done a { q' with source := l }) :
    SeesOnlyPulled f q := by
  intro a₁ q₁ e
  obtain ⟨rfl, rfl⟩ := Run.done.inj ((h q.source).symm.trans e)
  exact ⟨[], rfl, hk, h⟩

/-- Procedures that do the same whatever `SRC` is see the same of it. -/
theorem SeesOnlyPulled.congr {f g : Unpacker → Run Unpacker α} {q : Unpacker}
    (h : SeesOnlyPulled g q)
    (hfg : ∀ l, f { q with source := l } = g { q with source := l }) : SeesOnlyPulled f q := by
  intro a q' e
  obtain ⟨gone, hs, hk, hg⟩ := h a q' ((hfg q.source).symm.trans e)
  exact ⟨gone, hs, hk, fun other => (hfg _).trans (hg other)⟩

theorem SeesOnlyPulled.bind {x : Unpacker → Run Unpacker α} {f : α → Unpacker → Run Unpacker β}
    {q : Unpacker} (hx : SeesOnlyPulled x q) (hf : ∀ a t, SeesOnlyPulled (f a) t) :
    SeesOnlyPulled (fun q => (x q).bind f) q := by
  intro b q₂ h
  obtain ⟨a, q₁, ha, hb⟩ := Run.bind_eq_done h
  obtain ⟨gone, hs, hk, hx⟩ := hx a q₁ ha
  obtain ⟨gone', hs', hk', hf⟩ := hf a q₁ b q₂ hb
  refine ⟨gone ++ gone', by rw [hs, hs', List.append_assoc],
    by rw [hk', hk, List.length_append, Nat.add_assoc], fun other => ?_⟩
  rw [List.append_assoc]
  dsimp only
  rw [hx, Run.bind_done, hf]

end

/-- `SrcGet()` sees the head of `SRC` alone (20_memory.md R55). -/
theorem srcGet_seesOnlyPulled (q : Unpacker) : SeesOnlyPulled Unpacker.srcGet q := by
  intro b q' h
  obtain ⟨-, e⟩ | ⟨hc, o, ⟨-, e⟩ | ⟨-, e⟩ | ⟨_, rest, ho, hs, ⟨hr, e⟩ | ⟨-, e⟩⟩⟩ :=
    q.srcGet_cases <;> rw [e] at h <;> cases h
  refine ⟨[b], hs, rfl, fun other => ?_⟩
  simp [Unpacker.srcGet, Unpacker.deliver, hc, ho, hr]

theorem rDeliver_seesOnlyPulled (n : Nat) (q : Unpacker) : SeesOnlyPulled (rDeliver n) q :=
  .of_done (q' := { q with cursor := BitVec.ofNat 3 (q.cursor.toNat + n) })
    (a := partialSlice q.partialByte q.cursor.toNat n) rfl fun _ => rfl

/-- `r_take` sees the byte it pulls alone, if it pulls one (42 R161). -/
theorem rTake_seesOnlyPulled (n : Nat) (q : Unpacker) : SeesOnlyPulled (rTake n) q := by
  by_cases hc : q.cursor = 0#3
  · have h := (srcGet_seesOnlyPulled q).bind fun _ t => rDeliver_seesOnlyPulled n t
    exact h.congr fun _ => if_pos hc
  · exact (rDeliver_seesOnlyPulled n q).congr fun _ => if_neg hc

theorem takeAll_seesOnlyPulled (n : Nat) (q : Unpacker) : SeesOnlyPulled (takeAll n) q := by
  induction n generalizing q with
  | zero => exact .of_done rfl fun _ => rfl
  | succ n ih =>
    exact (rTake_seesOnlyPulled 1 q).bind fun _ t => (ih t).bind fun _ _ => .of_done rfl fun _ => rfl

/-! ## Commands -/

/-- The element count is read off the bits that were taken (43 R205). -/
theorem Unpacker.nextCount_of_takeAll {scale n : Nat} {q q' : Unpacker} {v : Bits} (hn : scale ≤ n)
    (h : takeAll n q = .done v q') : q.nextCount scale = uint (v.take scale) := by
  obtain ⟨hv, hs⟩ := takeAll_stream h
  rw [Unpacker.nextCount, hs, List.take_append_of_le_length (by omega)]

/-- The bits that a command takes hold all that its length depends on (43 R211, 42 R174). -/
theorem Unpacker.commandLength_withSource {i : Instr} {q q₁ q₂ : Unpacker} {v : Bits}
    {l : List Byte} (h : takeAll (q.commandLength i) q = .done v q₁)
    (h' : takeAll (q.commandLength i) { q with source := l } = .done v q₂) :
    ({ q with source := l } : Unpacker).commandLength i = q.commandLength i := by
  have hseq : ∀ scale range, q.commandLength i = q.sequenceLength scale range →
      ({ q with source := l } : Unpacker).sequenceLength scale range =
        q.sequenceLength scale range := by
    intro scale range hi
    have hle : scale ≤ q.commandLength i := hi ▸ Nat.le_add_right _ _
    rw [Unpacker.sequenceLength, Unpacker.sequenceLength, nextCount_of_takeAll hle h,
      nextCount_of_takeAll hle h']
  cases i
  case rbytes => exact hseq _ _ rfl
  case rstr => exact hseq _ _ rfl
  case rascii => exact hseq _ _ rfl
  all_goals rfl

@[simp] theorem State.legal_attachSource (i : Instr) (l : List Byte) (s : State) :
    (s.attachSource l).legal i = s.legal i := by
  cases i <;> rfl

/-- A legal command's pseudocode sees no byte behind those it pulls (20_memory.md R66). -/
theorem unpackerBody_seesOnlyPulled {i : Instr} {s : State} (he : i.engine = .unpacker)
    (hl : s.legal i = true) : SeesOnlyPulled (unpackerBody i s.r.params) s.r := by
  intro a q' h
  rw [unpackerBody_eq_takeAll he hl] at h
  obtain ⟨v, q₁, htake, hd⟩ := Run.bind_eq_done h
  obtain ⟨rfl, rfl⟩ := Run.done.inj hd
  obtain ⟨gone, hs, hk, hother⟩ := takeAll_seesOnlyPulled _ _ v q₁ htake
  refine ⟨gone, hs, hk, fun other => ?_⟩
  have hbody := unpackerBody_eq_takeAll (s := s.attachSource (gone ++ other)) he (by simpa using hl)
  simp only [State.attachSource_r] at hbody
  rw [hbody, Unpacker.commandLength_withSource htake (hother other), hother]
  rfl

/-- Illegal operands are answered before anything is pulled (60_exceptions.md R257). -/
theorem exec_unpacker_illegal {i : Instr} {s : State} (he : i.engine = .unpacker)
    (hcut : s.r.cut = none) (hl : s.legal i = false) :
    exec i s = .next { s with r := { s.r with response := some (.error .errValidation) } } := by
  rw [exec_unpacker s he, hl, unpackerRun_illegal, Unpacker.raise, s.r.respond_of_cut_none hcut]

/-- An unbound or faulted engine answers before anything is pulled (60_exceptions.md R258). -/
theorem exec_unpacker_unusable {i : Instr} {s : State} (he : i.engine = .unpacker)
    (hcut : s.r.cut = none) (hl : s.legal i = true) (hu : s.r.usable = false) :
    exec i s = .next { s with r := { s.r with response := some (.error .errState) } } := by
  rw [exec_unpacker s he, hl, unpackerRun_unusable hu, Unpacker.raise, s.r.respond_of_cut_none hcut]

/-- A command whose pseudocode returns is answered OK (30_encoding.md R97, R103). -/
theorem exec_unpacker_done {i : Instr} {s : State} {v : BitVec 64 × List Byte} {q : Unpacker}
    (he : i.engine = .unpacker) (hcut : s.r.cut = none) (hl : s.legal i = true)
    (hu : s.r.usable = true) (hx : unpackerBody i s.r.params s.r = .done v q) :
    exec i s = .next { s with r := { q with response := some ⟨.ok, v.1, v.2⟩ } } := by
  have hpulls : s.r.Pulls q := by simpa [hx] using unpackerBody_pulls i s.r.params s.r
  rw [exec_unpacker_usable he hl hu, hx, finishUnpacker,
    q.respond_of_cut_none (hpulls.cut_none.mpr hcut)]

/-- Settles O16: a command that stops before its pseudocode pulls nothing, and the pseudocode sees only
what it pulls. -/
theorem readerNeverLooksAhead : Obligations.ReaderNeverLooksAhead := by
  intro i s t he hcut h hio
  obtain ⟨r, rfl, hr⟩ := exec_unpacker_ends he h
  have hlegal := fun l => State.legal_attachSource i l s
  cases hr with
  | invalid _ hl =>
    exact ⟨0, Nat.zero_le _, rfl, rfl, fun other =>
      exec_unpacker_illegal (s := s.attachSource other) he hcut ((hlegal _).trans hl)⟩
  | unusable _ hl hu =>
    exact ⟨0, Nat.zero_le _, rfl, rfl, fun other =>
      exec_unpacker_unusable (s := s.attachSource other) he hcut ((hlegal _).trans hl) hu⟩
  | @done v q _ hl hx =>
    have hu : s.r.usable = true := by
      by_contra hu
      have hstate := exec_unpacker_unusable he hcut hl (by simpa using hu)
      simp [h, Response.error] at hstate
    obtain ⟨gone, hs, hk, hother⟩ := unpackerBody_seesOnlyPulled he hl v q hx
    refine ⟨gone.length, by simp [hs], by simp [hs], hk, fun other => ?_⟩
    rw [show s.r.source.take gone.length = gone by simp [hs]]
    exact exec_unpacker_done (s := s.attachSource (gone ++ other)) he hcut ((hlegal _).trans hl) hu
      (hother other)
  | io => exact absurd rfl hio
  | reset hc => exact absurd hcut hc
  | ioReset hc => exact absurd hcut hc

end Sys2Proof.Machine
end


section
/-! PROOFS. The fields of a command word under the decoder (30_encoding.md R90 to R95, R101). -/

namespace Sys2Proof

/-- A command whose must-be-zero bits are 0 is accepted, and no other (30_encoding.md R101). -/
theorem unlessStray_eq_ok {checks : List (Bool × DecodeError)} {i j : Instr} :
    unlessStray checks i = .ok j ↔ (∀ c ∈ checks, c.1 = false) ∧ i = j := by
  unfold unlessStray
  split
  · next c hc =>
    have hstray : c.1 = true := by simpa using List.find?_some hc
    refine ⟨fun h => (by cases h), fun ⟨hall, _⟩ => ?_⟩
    rw [hall c (List.mem_of_find?_eq_some hc)] at hstray
    cases hstray
  · next hc =>
    have hall : ∀ c ∈ checks, c.1 = false := by simpa using hc
    exact ⟨fun h => ⟨hall, by cases h; rfl⟩, fun ⟨_, h⟩ => by rw [h]⟩

@[simp] theorem Fields.strayU_fst (f : Fields) : f.strayU.1 = false ↔ f.u = 0#1 := by
  simp [Fields.strayU]

@[simp] theorem Fields.straySize_fst (f : Fields) : f.straySize.1 = false ↔ f.size = 0#8 := by
  simp [Fields.straySize]

@[simp] theorem Fields.strayRange_fst (f : Fields) : f.strayRange.1 = false ↔ f.range = 0#8 := by
  simp [Fields.strayRange]

@[simp] theorem Fields.strayValue_fst (f : Fields) : f.strayValue.1 = false ↔ f.value = 0#64 := by
  simp [Fields.strayValue]

@[simp] theorem Fields.strayValueHigh_fst (f : Fields) :
    f.strayValueHigh.1 = false ↔ f.value.extractLsb' 32 32 = 0#32 := by
  simp [Fields.strayValueHigh]

/-! ## Operands, read back from their fields -/

@[simp] theorem signednessOf_uBit (u : Signedness) : signednessOf (uBit u) = u := by
  cases u <;> rfl

@[simp] theorem fitsByte_iff {n : Nat} : fitsByte n = true ↔ n < 256 := by simp [fitsByte]

@[simp] theorem fitsLength_iff {n : Nat} : fitsLength n = true ↔ n < 4294967296 := by
  simp [fitsLength]

/-- A value narrower than `VALUE` stands in its low bits (30_encoding.md R95). -/
theorem extractLsb'_setWidth_self {m n : Nat} (h : m ≤ n) (v : BitVec m) :
    (v.setWidth n).extractLsb' 0 m = v := by
  rw [BitVec.extractLsb'_setWidth_of_le (by omega), BitVec.extractLsb'_eq_self]

section
variable (opc : BitVec 8) (rsv : BitVec 7) (u : BitVec 1) (size range : BitVec 8)

/-- A boundary is read back from the low bits of `VALUE`, for every width it fits (R95, R104). -/
theorem Fields.boundary_boundaryField {boundaryW : Nat} {b : Int} (h1 : 1 ≤ boundaryW)
    (h64 : boundaryW ≤ 64) (h : fitsBoundary boundaryW b = true) :
    (Fields.mk opc rsv u size range (boundaryField b)).boundary boundaryW = b := by
  simp only [fitsBoundary, Bool.and_eq_true, decide_eq_true_eq] at h
  obtain ⟨hlo, hhi⟩ := h
  have hdvd : ((2 ^ boundaryW : Nat) : Int) ∣ (2 ^ 64 : Nat) :=
    Int.natCast_dvd_natCast.mpr (Nat.pow_dvd_pow 2 h64)
  have hlow : (boundaryField b).extractLsb' 0 boundaryW = BitVec.ofInt boundaryW b := by
    rw [← BitVec.setWidth_eq_extractLsb' h64]
    apply BitVec.eq_of_toInt_eq
    rw [BitVec.toInt_setWidth, boundaryField, BitVec.toInt_ofInt, BitVec.toNat_ofInt,
      Int.toNat_of_nonneg (Int.emod_nonneg _ (by decide)), ← Int.emod_bmod, ← Int.emod_bmod b,
      Int.emod_emod_of_dvd _ hdvd]
  rw [Fields.boundary, hlow, BitVec.toInt_ofInt_eq_self h1 hlo hhi]

/-- A length is read back from the low 32 bits of `VALUE` (30_encoding.md R95). -/
theorem Fields.len_ofNat {n : Nat} (h : fitsLength n = true) :
    (Fields.mk opc rsv u size range (BitVec.ofNat 64 n)).len = n :=
  Laws.len_ofNat rfl h

end

/-- `VALUE[63:32]` of a length is 0 (30_encoding.md R95). -/
theorem extractLsb'_high_ofNat {n : Nat} (h : fitsLength n = true) :
    (BitVec.ofNat 64 n).extractLsb' 32 32 = 0#32 := by
  rw [fitsLength_iff] at h
  apply BitVec.eq_of_toNat_eq
  simp only [BitVec.extractLsb'_toNat, BitVec.toNat_ofNat, Nat.shiftRight_eq_div_pow]
  omega

/-! ## Encode, then decode -/

/-- Settles O1: each command's must-be-zero bits are 0, and each operand is read back from its field. -/
theorem encodeThenDecodeIsIdentity : Obligations.EncodeThenDecodeIsIdentity := by
  intro i boundaryW h1 h64 h
  rw [decode_encode_fields]
  cases i
  case wbool | rbool | rstr | rascii => simp [decodeFields, Instr.fields, unlessStray_eq_ok]
  case wbyte | wshort | wint | wlong | wchar | rbyte | rshort | rint | rlong | rchar =>
    simpa [decodeFields, Instr.fields, unlessStray_eq_ok, extractLsb'_setWidth_self] using
      fitsByte_iff.mp h
  case walign | ralign =>
    simp [decodeFields, Instr.fields, unlessStray_eq_ok, Fields.boundary_boundaryField, h1, h64,
      show fitsBoundary boundaryW _ = true from h]
  case wstr | wascii =>
    simp [decodeFields, Instr.fields, unlessStray_eq_ok, extractLsb'_high_ofNat h,
      Fields.len_ofNat _ _ _ _ _ h]
  case wbytes =>
    simp only [Instr.wellFormed, Bool.and_eq_true] at h
    obtain ⟨⟨hscale, hrange⟩, hlen⟩ := h
    simpa [decodeFields, Instr.fields, unlessStray_eq_ok, extractLsb'_high_ofNat hlen,
      Fields.len_ofNat _ _ _ _ _ hlen] using ⟨fitsByte_iff.mp hscale, fitsByte_iff.mp hrange⟩
  case rbytes =>
    simpa [decodeFields, Instr.fields, unlessStray_eq_ok, Instr.wellFormed] using h

end Sys2Proof
end


section
/-! PROOFS. The opcode table by match and mask (30_encoding.md R101, R102). -/

namespace Sys2Proof

/-- The fields of a word under a mask. -/
def Fields.masked (f m : Fields) : Fields :=
  ⟨f.opc &&& m.opc, f.rsv &&& m.rsv, f.u &&& m.u, f.size &&& m.size, f.range &&& m.range,
    f.value &&& m.value⟩

theorem Fields.ofWord_and (w m : CommandWord) :
    Fields.ofWord (w &&& m) = (Fields.ofWord w).masked (Fields.ofWord m) := by
  simp only [Fields.ofWord, Fields.masked, BitVec.extractLsb'_and]

theorem Fields.ofWord_inj {w w' : CommandWord} : Fields.ofWord w = Fields.ofWord w' ↔ w = w' := by
  refine ⟨fun h => ?_, congrArg _⟩
  rw [← Fields.toWord_ofWord w, h, Fields.toWord_ofWord]

/-- A word with fields `f` selects the row. -/
def TableRow.Selects (r : TableRow) (f : Fields) : Prop :=
  f.masked (Fields.ofWord r.mask) = Fields.ofWord r.pattern

theorem TableRow.selects_ofWord {r : TableRow} {w : CommandWord} :
    r.Selects (Fields.ofWord w) ↔ w &&& r.mask = r.pattern := by
  rw [TableRow.Selects, ← Fields.ofWord_and, Fields.ofWord_inj]

/-- The rows of an engine's commands (30_encoding.md R91, R101). -/
def engineTable : Engine → List TableRow
  | .packer => opcodeTableWrites
  | .unpacker => opcodeTableReads

theorem mem_opcodeTable {r : TableRow} : r ∈ opcodeTable ↔ ∃ e, r ∈ engineTable e := by
  rw [opcodeTable, List.mem_append]
  exact ⟨fun h => h.elim (⟨.packer, ·⟩) (⟨.unpacker, ·⟩), fun ⟨e, h⟩ => by
    cases e
    · exact .inl h
    · exact .inr h⟩

/-! ## Masks -/

@[simp] theorem and_mask_bit (x : BitVec 1) : x &&& 1#1 = x := BitVec.and_allOnes

@[simp] theorem and_mask_rsv (x : BitVec 7) : x &&& 0x7F#7 = x := BitVec.and_allOnes

@[simp] theorem and_mask_byte (x : BitVec 8) : x &&& 0xFF#8 = x := BitVec.and_allOnes

@[simp] theorem and_mask_value (x : BitVec 64) : x &&& 0xFFFFFFFFFFFFFFFF#64 = x :=
  BitVec.and_allOnes

/-- The mask of `VALUE[63:32]` (30_encoding.md R95, R101). -/
@[simp] theorem and_mask_valueHigh (x : BitVec 64) :
    x &&& 0xFFFFFFFF00000000#64 = 0#64 ↔ x.extractLsb' 32 32 = 0#32 := by
  have hmask : x &&& 0xFFFFFFFF00000000#64 = x.extractLsb' 32 32 ++ 0#32 := by
    apply BitVec.eq_of_getLsbD_eq
    intro i hi
    simp only [BitVec.getLsbD_and, BitVec.getLsbD_append, BitVec.getLsbD_extractLsb',
      show 0xFFFFFFFF00000000#64 = BitVec.allOnes 32 ++ 0#32 from rfl, BitVec.getLsbD_allOnes]
    grind
  rw [hmask, show 0#64 = 0#32 ++ 0#32 from rfl, BitVec.append_left_inj]

theorem opc_eq_of_toNat {x : BitVec 8} {n : Nat} (h : x.toNat = n) : x = BitVec.ofNat 8 n := by
  rw [← h, BitVec.ofNat_toNat, BitVec.setWidth_eq]

/-! ## Decoder and table -/

/-- A command's word selects the row of the command (30_encoding.md R101): in each row of the opcode map
the must-be-zero checks are the mask. -/
theorem decodeFields_ok_selects {f : Fields} {boundaryW : Nat} {i : Instr}
    (h : decodeFields f boundaryW = .ok i) :
    ∃ r ∈ engineTable i.engine, r.mnemonic = i.mnemonic ∧ r.Selects f := by
  unfold decodeFields at h
  split at h
  · cases h
  · next hrsv =>
    rw [not_not] at hrsv
    split at h
    case h_21 => cases h
    all_goals
      next hopc =>
      obtain ⟨hchecks, rfl⟩ := unlessStray_eq_ok.mp h
      simpa [engineTable, opcodeTableWrites, opcodeTableReads, Instr.engine, Instr.mnemonic,
        TableRow.Selects, Fields.masked, Fields.ofWord, opc_eq_of_toNat hopc, hrsv] using hchecks

/-- A word that selects a row is a command's (30_encoding.md R101, R102): the mask asks for all of its
must-be-zero checks. -/
theorem decodeFields_of_selects {f : Fields} (boundaryW : Nat) {r : TableRow}
    (hr : r ∈ opcodeTable) (h : r.Selects f) : ∃ i, decodeFields f boundaryW = .ok i := by
  fin_cases hr
  all_goals
    simp [TableRow.Selects, Fields.masked, Fields.ofWord] at h
    obtain ⟨hopc, hrsv, hzero⟩ := h
    simpa [decodeFields, hopc, hrsv, unlessStray_eq_ok] using hzero

/-- Settles O2: a mask asks for the checks of the decoder. -/
theorem decodeFollowsTheOpcodeTable : Obligations.DecodeFollowsTheOpcodeTable := by
  intro w boundaryW
  refine ⟨fun i h => ?_, fun e h r hr hsel => ?_⟩
  · obtain ⟨r, hr, hm, hsel⟩ := decodeFields_ok_selects h
    exact ⟨r, mem_opcodeTable.mpr ⟨_, hr⟩, hm, TableRow.selects_ofWord.mp hsel⟩
  · obtain ⟨i, hi⟩ := decodeFields_of_selects boundaryW hr (TableRow.selects_ofWord.mpr hsel)
    rw [decode, hi] at h
    cases h

/-- A word that selects no row of an engine is no command of that engine (30_encoding.md R102). -/
theorem decodeFor_of_selects_none {e : Engine} {w : CommandWord} (boundaryW : Nat)
    (h : ∀ r ∈ engineTable e, w &&& r.mask ≠ r.pattern) :
    ∃ err, decodeFor e w boundaryW = .error err := by
  unfold decodeFor
  cases hd : decode w boundaryW with
  | error err => exact ⟨err, rfl⟩
  | ok i =>
    obtain ⟨r, hr, -, hsel⟩ := decodeFields_ok_selects hd
    have hne : i.engine ≠ e := by
      rintro rfl
      exact h r hr (TableRow.selects_ofWord.mp hsel)
    exact ⟨.otherEngine, if_neg hne⟩

end Sys2Proof
end


section
/-! PROOFS. Command words on the command ports: the command runs, or the illegal word is answered
(30_encoding.md R97, R98, R102, R103, R106). -/

namespace Sys2Proof.Machine

/-- Settles O3: each word is evaluated. -/
theorem wordsOfTheSpecDecode : Obligations.WordsOfTheSpecDecode :=
  ⟨rfl, rfl, rfl, rfl, rfl, rfl, rfl⟩

theorem Status.code_toNat_lt (st : Status) : st.code.toNat < 4 := by
  cases st <;> decide

/-- Settles O4: the status code stands above the 64 bits of the result. -/
theorem responseWordHoldsStatusAndResult : Obligations.ResponseWordHoldsStatusAndResult := by
  refine ⟨fun a => ?_, rfl, rfl, rfl, rfl⟩
  have hstatus : a.word.extractLsb' 64 8 = a.status.code := BitVec.extractLsb'_append_eq_left
  exact ⟨hstatus, BitVec.extractLsb'_append_eq_right, hstatus ▸ a.status.code_toNat_lt⟩

/-! ## Words on the command ports -/

theorem decodeFor_of_decode {w : CommandWord} {boundaryW : Nat} {i : Instr}
    (h : decode w boundaryW = .ok i) : decodeFor i.engine w boundaryW = .ok i := by
  rw [decodeFor, h]
  exact if_pos rfl

section
variable {s : State} {word : CommandWord} {payload : List Byte} {rst : Option Nat}
  {rest : List HostEvent} {i : Instr} {err : DecodeError}

theorem step_packerCommand_ok (hs : s.host = .packerCommand word payload rst :: rest)
    (hr : s.w.response = none) (h : decodeFor .packer word s.w.params.boundaryW = .ok i) :
    step s = exec i (({ s with host := rest } : State).acceptPacker payload rst) := by
  rw [step_cons hs, handle, fetchPacker]
  simp only [hr, h, Fetched.outcome]

theorem step_packerCommand_error (hs : s.host = .packerCommand word payload rst :: rest)
    (hr : s.w.response = none) (h : decodeFor .packer word s.w.params.boundaryW = .error err) :
    step s = illegalPacker word (({ s with host := rest } : State).acceptPacker payload rst) := by
  rw [step_cons hs, handle, fetchPacker]
  simp only [hr, h, Fetched.outcome]

theorem step_unpackerCommand_ok (hs : s.host = .unpackerCommand word rst :: rest)
    (hr : s.r.response = none) (h : decodeFor .unpacker word s.r.params.boundaryW = .ok i) :
    step s = exec i (({ s with host := rest } : State).acceptUnpacker rst) := by
  rw [step_cons hs, handle, fetchUnpacker]
  simp only [hr, h, Fetched.outcome]

theorem step_unpackerCommand_error (hs : s.host = .unpackerCommand word rst :: rest)
    (hr : s.r.response = none) (h : decodeFor .unpacker word s.r.params.boundaryW = .error err) :
    step s = illegalUnpacker (({ s with host := rest } : State).acceptUnpacker rst) := by
  rw [step_cons hs, handle, fetchUnpacker]
  simp only [hr, h, Fetched.outcome]

end

/-- Settles O5: the event is fetched, and its word is decoded. -/
theorem stepRunsTheDecodedCommand : Obligations.StepRunsTheDecodedCommand := by
  intro s word rst rest i
  exact ⟨fun _ hs hr hd he => step_packerCommand_ok hs hr (he ▸ decodeFor_of_decode hd),
    fun hs hr hd he => step_unpackerCommand_ok hs hr (he ▸ decodeFor_of_decode hd)⟩

/-! ## Illegal words -/

/-- Which words have payload bytes behind them, and how many (30_encoding.md R96, R102). -/
theorem wordPayloadLength_eq (w : CommandWord) : wordPayloadLength w =
    if w.extractLsb' 88 8 = 0x17#8 ∨ w.extractLsb' 88 8 = 0x18#8 ∨ w.extractLsb' 88 8 = 0x19#8 then
      (w.extractLsb' 0 32).toNat
    else 0 := by
  have hlen : (Fields.ofWord w).len = (w.extractLsb' 0 32).toNat := by
    simp [Fields.len, Fields.ofWord]
  have hopc : ∀ n : BitVec 8, w.extractLsb' 88 8 = n ↔ (Fields.ofWord w).opc.toNat = n.toNat :=
    fun n => BitVec.toNat_inj.symm
  simp only [wordPayloadLength, hlen, hopc]
  split <;> simp_all

/-- An illegal word is answered once its payload was taken (30_encoding.md R102). -/
theorem illegalPacker_answered {word : CommandWord} {s : State} (hcut : s.w.cut = none)
    (hlen : wordPayloadLength word ≤ s.w.payload.length) :
    illegalPacker word s = .next { s with w := { s.w with
      payload := s.w.payload.drop (wordPayloadLength word)
      response := some (.error .errValidation) } } := by
  rw [illegalPacker, packerRun_enough hlen, packerWork_illegal, Packer.raise,
    Packer.respond_of_cut_none]
  exact hcut

/-- An illegal word is answered, and takes no payload (30_encoding.md R88, R102). -/
theorem illegalUnpacker_answered {s : State} (hcut : s.r.cut = none) :
    illegalUnpacker s =
      .next { s with r := { s.r with response := some (.error .errValidation) } } := by
  rw [illegalUnpacker, unpackerRun_illegal, Unpacker.raise, Unpacker.respond_of_cut_none _ hcut]

/-- Settles O6: a word that selects no row of its engine is refused by the decoder, so it is answered
like a command with illegal operands. -/
theorem illegalWordIsAnsweredValidationError :
    Obligations.IllegalWordIsAnsweredValidationError := by
  intro s word rest
  refine ⟨fun payload len hs hr hrows hlen hle => ?_, fun hs hr hrows => ?_⟩
  · obtain ⟨err, hd⟩ := decodeFor_of_selects_none (e := .packer) s.w.params.boundaryW hrows
    obtain rfl := hlen.trans (wordPayloadLength_eq word).symm
    rw [step_packerCommand_error hs hr hd, illegalPacker_answered rfl hle]
    rfl
  · obtain ⟨err, hd⟩ := decodeFor_of_selects_none (e := .unpacker) s.r.params.boundaryW hrows
    rw [step_unpackerCommand_error hs hr hd, illegalUnpacker_answered rfl]
    rfl

end Sys2Proof.Machine
end


section
/-! PROOFS. A `PACKER` command whose transfers are all answered completes (41_bit_packer.md R136,
30_encoding.md R97). -/

namespace Sys2Proof.Machine

theorem Packer.ready_iff {k : Nat} {p : Packer} : p.ready k = true ↔
    p.usable = true ∧ p.cut = none ∧ p.answers.okFor k = true ∧
      p.count + k < 2 ^ p.params.cntW := by
  simp [Packer.ready, Packer.usable, and_assoc]

/-- Where the emission returns, the run does. -/
theorem Emits.returned {α : Type} {v : Bits} {a : α} {p t : Packer} {x : Run Packer α}
    (h : Emits v a p x) (he : emitAll v p = .done () t) : ∃ t', x = .done a t' := by
  cases x with
  | done a' t' => exact ⟨t', by rw [(h.of_done rfl).1]⟩
  | halted k t' =>
    obtain ⟨t'', hh, -⟩ := h.of_halted rfl
    rw [he] at hh
    cases hh

/-- A command whose pseudocode returns is answered OK (30_encoding.md R97, R103). -/
theorem exec_packer_done {i : Instr} {s : State} {v : BitVec 64} {p : Packer}
    (he : i.engine = .packer) (hl : s.legal i = true) (hu : s.w.usable = true)
    (hcut : s.w.cut = none) (hlen : i.payloadLength ≤ s.w.payload.length)
    (hx : packerBody i s.w.params (s.w.payload.take i.payloadLength)
      (s.w.dropPayload i.payloadLength) = .done v p) :
    exec i s = .next { s with w := { p with response := some ⟨.ok, v, []⟩ } } := by
  have hs := packerBody_sends i s.w.params (s.w.payload.take i.payloadLength)
    (s.w.dropPayload i.payloadLength)
  rw [hx] at hs
  rw [exec_packer_usable he hl hu hlen, hx, finishPacker,
    p.respond_of_cut_none (hs.cut_none.mpr hcut)]

/-- A legal command of a writer that is ready for its transfers completes: it writes its bits and
answers OK (41 R136). -/
theorem exec_packer_ready {i : Instr} {s : State} {bits : Bits} (he : i.engine = .packer)
    (hl : s.legal i = true) (hlen : i.payloadLength ≤ s.w.payload.length)
    (hbits : s.w.commandBits i (s.w.payload.take i.payloadLength) = bits)
    (hr : s.w.ready (s.w.puts bits.length) = true) :
    ∃ t, exec i s = .next t ∧ s.Wrote bits i.payloadLength (writeValue i bits.length) t := by
  obtain ⟨hu, hcut, ho, hroom⟩ := Packer.ready_iff.mp hr
  have hemits := packerBody_emits he hl (s.w.payload.take i.payloadLength)
    (p := s.w.dropPayload i.payloadLength) rfl
  rw [Packer.commandBits_dropPayload, hbits] at hemits
  obtain ⟨_, hemit, -⟩ := emitAll_ready (p := s.w.dropPayload i.payloadLength) hcut ho hroom
  obtain ⟨p, hx⟩ := hemits.returned hemit
  have hs := packerBody_sends i s.w.params (s.w.payload.take i.payloadLength)
    (s.w.dropPayload i.payloadLength)
  rw [hx] at hs
  have hwritten : (s.w.dropPayload i.payloadLength).Written bits p :=
    (hemits.written hx).clear hcut hs
  exact ⟨_, exec_packer_done he hl hu hcut hlen hx, hwritten, hs.payload, rfl, rfl, rfl⟩

/-- Settles O19: WBOOL is always legal, takes no payload, and its bits are its one bit. -/
theorem wboolWritesItsBit : Obligations.WboolWritesItsBit := fun b _ hr =>
  exec_packer_ready (i := .wbool b) rfl rfl (Nat.zero_le _) rfl hr

/-- Settles O21: such a WCHAR is legal, and its bits are its field. -/
theorem wcharWritesItsField : Obligations.WcharWritesItsField := by
  intro size value s h1 h16 hr
  have hl : s.legal (.wchar size value) = true := by
    simp [State.legal, legalChar, Config.charMax, h1, h16]
  exact exec_packer_ready (i := .wchar size value) rfl hl (Nat.zero_le _) rfl
    (by rwa [fieldBits_length])

theorem sequenceBits_length (scale range : Nat) (d : List Byte) :
    (sequenceBits scale range d).length = scale + d.length * range := by
  simp [sequenceBits, List.length_flatMap]

/-- Settles O33: such a WBYTES is legal, and its bits are those of the sequence. -/
theorem wbytesWritesCountAndElements : Obligations.WbytesWritesCountAndElements := by
  intro scale range len s bits hs1 hs31 hr1 hr8 hfit hlen hbits hr
  have hl : s.legal (.wbytes scale range len) = true := by
    simp [State.legal, legalSequence, legalScale, legalRange, Config.scaleMax, Config.rangeMax,
      hs1, hs31, hr1, hr8, hfit]
  obtain ⟨t, ht, hwrote⟩ :=
    exec_packer_ready (i := .wbytes scale range len) rfl hl hlen hbits.symm hr
  refine ⟨t, ht, hwrote, ?_⟩
  rw [hbits, sequenceBits_length, List.length_take_of_le hlen]

end Sys2Proof.Machine
end


section
/-! PROOFS. Two commands that emit the same bits have the same outcome (41_bit_packer.md R128). -/

namespace Sys2Proof.Machine

theorem sameWrites.symm {x y : Run Packer Unit} (h : sameWrites x y) : sameWrites y x := by
  cases x <;> cases y <;> simp only [sameWrites] at h ⊢
  · exact ⟨h.1.symm, h.2.symm⟩
  · exact ⟨h.1.symm, h.2.symm⟩

theorem sameOutcome.refl (x : Host.Outcome State Fault Refusal) : sameOutcome x x := by
  cases x with
  | next t => exact ⟨fun _ => ⟨rfl, rfl⟩, rfl, rfl, rfl⟩
  | fault f => exact rfl
  | refused f => exact rfl

/-- Writers that 41 R128 cannot tell apart end a command alike (30_encoding.md R97, 70 R292). -/
theorem Packer.SameValid.respond {p p' : Packer} (h : p.SameValid p') (a : Response) (s : State) :
    State.sameButSpare { s with w := p.respond a } { s with w := p'.respond a } := by
  have heq := h.eq_with
  have hcut : p'.cut = p.cut := by rw [heq]
  by_cases hc : p.cut = none
  · rw [p.respond_of_cut_none hc, p'.respond_of_cut_none (hcut.trans hc), heq]
    exact ⟨fun _ => ⟨rfl, h.1.trans (by rw [heq]; rfl)⟩, rfl, rfl, rfl⟩
  · obtain ⟨k, hk⟩ := Option.ne_none_iff_exists'.mp hc
    rw [p.respond_of_cut_some hk, p'.respond_of_cut_some (hcut.trans hk), heq]
    exact ⟨fun _ => ⟨rfl, rfl⟩, rfl, rfl, rfl⟩

/-- The end of a halted command does not depend on `W.cursor` and `W.partial` (60_exceptions.md R261,
70 R292). -/
theorem finishPacker_halted_congr (k : Halt) {p p' : Packer} (s : State)
    (h : ({ p with partialByte := 0#8, cursor := 0#3 } : Packer) =
      { p' with partialByte := 0#8, cursor := 0#3 }) :
    finishPacker (.halted k p) s = finishPacker (.halted k p') s := by
  have hcleared := congrArg (fun t : Packer => finishPacker (.halted k t) s) h
  cases k <;> exact hcleared

/-- Runs that emit the same bits end the command alike. -/
theorem Emits.sameOutcome {v : Bits} {a : BitVec 64} {p : Packer} {x y : Run Packer (BitVec 64)}
    (hx : Emits v a p x) (hy : Emits v a p y) (s : State) :
    sameOutcome (finishPacker x s) (finishPacker y s) := by
  have hsame := hx.1.trans hy.1.symm
  cases x with
  | done b t =>
    cases y with
    | done c t' =>
      obtain rfl := hx.2 b t rfl
      obtain rfl := hy.2 c t' rfl
      exact Packer.SameValid.respond hsame _ s
    | halted k t' => exact hsame.elim
  | halted k t =>
    cases y with
    | done c t' => exact hsame.elim
    | halted k' t' =>
      obtain ⟨rfl, heq⟩ := hsame
      rw [finishPacker_halted_congr k s heq]
      exact .refl _

/-- The order of work of R103 tells bodies apart only by how they end. -/
theorem packerRun_sameOutcome {legal : Bool}
    {body body' : List Byte → Packer → Run Packer (BitVec 64)} {s : State} (len : Nat)
    (h : legal = true → ∀ d p,
      sameOutcome (finishPacker (body d p) s) (finishPacker (body' d p) s)) :
    sameOutcome (packerRun len legal body s) (packerRun len legal body' s) := by
  unfold packerRun
  split
  · next d p _ =>
    cases legal with
    | false => exact .refl _
    | true =>
      cases hu : p.usable with
      | false => rw [packerWork_unusable hu, packerWork_unusable hu]; exact .refl _
      | true => rw [packerWork_usable hu, packerWork_usable hu]; exact h rfl d p
  · exact .refl _

theorem writeNumeric_signed_unsigned {m : Nat} {n : Native} {size : Nat} (h2 : 2 ≤ size)
    (hn : size < n.width) (v : BitVec m) (s : State) :
    sameOutcome (writeNumeric n .signed size v s) (writeNumeric n .unsigned size v s) := by
  have hsigned : legalSize n .signed size = true := by simp [legalSize, h2, hn.le]
  have hunsigned : legalSize n .unsigned size = true := by
    simp only [legalSize, Bool.and_eq_true, decide_eq_true_eq]
    omega
  unfold writeNumeric
  rw [hsigned, hunsigned]
  exact packerRun_sameOutcome 0 fun _ _ p =>
    (writeField_emits hsigned v p).sameOutcome (writeField_emits hunsigned v p) s

/-- Settles O24: both emit the same bits (41 R128), at each of the four widths. -/
theorem signedAndUnsignedWritesAgree : Obligations.SignedAndUnsignedWritesAgree := by
  intro n size value s h2 hn
  cases n
  all_goals exact writeNumeric_signed_unsigned h2 hn _ s

end Sys2Proof.Machine
end


section
/-! PROOFS. The form of the response that a command leaves (30_encoding.md R97). -/

namespace Sys2Proof.Machine

/-- A read returns a payload for RBYTES, RSTR and RASCII only, as long as its result says (30_encoding.md
R97). -/
theorem readValue_payload_length {i : Instr} {s : State} (hl : s.legal i = true) (v : Bits) :
    (readValue i s.r.params v).2.length =
      if i.hasResponsePayload then (readValue i s.r.params v).1.toNat else 0 := by
  cases i
  case rbytes => exact sequenceOf_length (sequence_bounds hl).2.1 _ v
  case rstr => exact sequenceOf_length (sequence_bounds hl).2.1 _ v
  case rascii => exact sequenceOf_length (sequence_bounds hl).2.1 _ v
  all_goals rfl

/-- Settles O45: each way a command can end without `rst` leaves a response of this form. -/
theorem everyCommandIsAnsweredOnce : Obligations.EveryCommandIsAnsweredOnce := by
  intro i s t h
  refine ⟨fun he hcut => ?_, fun he hcut => ?_⟩
  · obtain ⟨w, rfl, hw⟩ := exec_packer_ends he h
    cases hw with
    | invalid => exact ⟨_, rfl, rfl, fun _ => rfl⟩
    | unusable => exact ⟨_, rfl, rfl, fun _ => rfl⟩
    | done => exact ⟨_, rfl, rfl, fun hne => absurd rfl hne⟩
    | io => exact ⟨_, rfl, rfl, fun _ => rfl⟩
    | reset hc => exact absurd hcut hc
    | ioReset hc => exact absurd hcut hc
  · obtain ⟨r, rfl, hr⟩ := exec_unpacker_ends he h
    cases hr with
    | invalid => exact ⟨_, rfl, fun _ => ⟨rfl, rfl⟩, fun hok => by cases hok⟩
    | unusable => exact ⟨_, rfl, fun _ => ⟨rfl, rfl⟩, fun hok => by cases hok⟩
    | done _ hl hx =>
      refine ⟨_, rfl, fun hne => absurd rfl hne, fun _ => ?_⟩
      rw [unpackerBody_eq_takeAll he hl] at hx
      obtain ⟨v, q, -, hd⟩ := Run.bind_eq_done hx
      cases hd
      exact readValue_payload_length hl v
    | io => exact ⟨_, rfl, fun _ => ⟨rfl, rfl⟩, fun hok => by cases hok⟩
    | reset hc => exact absurd hcut hc
    | ioReset hc => exact absurd hcut hc

end Sys2Proof.Machine
end


section
/-! PROOFS. The write procedures emit bit by bit, and every write command follows the position law
(41_bit_packer.md R128, R136). -/

namespace Sys2Proof.Machine

/-- A write procedure that emits its bits cannot be told from their emission (41 R128). -/
theorem Emits.toSameWrites {v : Bits} {p : Packer} {x : Run Packer Unit} (h : Emits v () p x) :
    sameWrites x (emitAll v p) := by
  obtain ⟨hs, -⟩ := h
  rwa [Run.bind_return] at hs

/-- Settles O17: each procedure emits its bits, cut into chunks or not. -/
theorem writeProceduresEmitBitByBit : Obligations.WriteProceduresEmitBitByBit := fun v p h1 =>
  ⟨fun h8 => (wU8_emits h1 h8).toSameWrites, fun _ => (wU16_emits v p).toSameWrites,
    fun _ => (wU32_emits v p).toSameWrites, fun _ => (wU64_emits v p).toSameWrites,
    fun _ hn => (wSigned_emits h1 hn).toSameWrites⟩

/-- WALIGN pads by no more than `boundary` bytes (41 R135). -/
theorem Packer.padding_le {boundary : Nat} (hb : 0 < boundary) (p : Packer) :
    p.padding boundary ≤ 8 * boundary := by
  unfold Packer.padding
  split
  · have := leastMultiple_cases hb (p.count + 1)
    omega
  · have := leastMultiple_cases hb p.count
    simp only [Nat.add_zero]
    omega

/-- Below a boundary of `2^61` the number of padding bits fits `RESULT` (30_encoding.md R99, log 29). -/
theorem Packer.paddingResult_padding {boundary : Int} (h1 : 1 ≤ boundary) (h61 : boundary < 2 ^ 61)
    (p : Packer) :
    (paddingResult (p.padding boundary.toNat)).toNat = p.padding boundary.toNat := by
  have := p.padding_le (boundary := boundary.toNat) (by omega)
  exact paddingResult_toNat (by omega)

/-- A boundary that a word of at most 62 bits carries is below `2^61` (30_encoding.md R95). -/
theorem fitsBoundary_lt {boundaryW : Nat} {boundary : Int} (hw : boundaryW ≤ 62)
    (h : fitsBoundary boundaryW boundary = true) : boundary < 2 ^ 61 := by
  rw [fitsBoundary, Bool.and_eq_true, decide_eq_true_eq, decide_eq_true_eq] at h
  have hle : (2 : Int) ^ (boundaryW - 1) ≤ 2 ^ 61 := pow_le_pow_right₀ (by decide) (by omega)
  omega

/-- A legal command that a word can carry writes as many bits as R136 says (41 R136). -/
theorem Packer.commandBits_length {i : Instr} {d : List Byte} {s : State} (he : i.engine = .packer)
    (hl : s.legal i = true) (hd : d.length = i.payloadLength)
    (hwf : i.wellFormed s.w.params.boundaryW = true) (hw : s.w.params.boundaryW ≤ 62) :
    (s.w.commandBits i d).length =
      s.w.writeLength i (writeValue i (s.w.commandBits i d).length) := by
  cases i
  case wbool => rfl
  case wbyte => exact fieldBits_length _ _
  case wshort => exact fieldBits_length _ _
  case wint => exact fieldBits_length _ _
  case wlong => exact fieldBits_length _ _
  case wchar => exact fieldBits_length _ _
  case walign boundary =>
    rw [State.legal, legalBoundary, decide_eq_true_eq] at hl
    simp only [Packer.commandBits, List.length_replicate, writeValue, Packer.writeLength]
    exact (s.w.paddingResult_padding hl (fitsBoundary_lt hw hwf)).symm
  case wbytes => exact (sequenceBits_length _ _ d).trans (by rw [hd]; rfl)
  case wstr => exact (sequenceBits_length _ _ d).trans (by rw [hd]; rfl)
  case wascii => exact (sequenceBits_length _ _ d).trans (by rw [hd]; rfl)
  all_goals cases he

/-- A command that ends without `rst` found its whole payload (70 R301). -/
theorem payload_enough_of_exec {i : Instr} {s t : State} (he : i.engine = .packer)
    (hcut : s.w.cut = none) (h : exec i s = .next t) :
    i.payloadLength ≤ s.w.payload.length := by
  by_contra hlen
  rw [exec_packer s he, packerRun_missing (Nat.lt_of_not_le hlen) hcut] at h
  cases h

/-- A legal command whose pseudocode returns has written its bits, with the value that their number gives
(41 R136). -/
theorem packerBody_written {i : Instr} {s : State} {v : BitVec 64} {p : Packer}
    (he : i.engine = .packer) (hl : s.legal i = true) (hcut : s.w.cut = none)
    (hx : packerBody i s.w.params (s.w.payload.take i.payloadLength)
      (s.w.dropPayload i.payloadLength) = .done v p) :
    v = writeValue i (s.w.commandBits i (s.w.payload.take i.payloadLength)).length ∧
      s.w.Written (s.w.commandBits i (s.w.payload.take i.payloadLength)) p := by
  have hemits := packerBody_emits he hl (s.w.payload.take i.payloadLength)
    (p := s.w.dropPayload i.payloadLength) rfl
  have hs := packerBody_sends i s.w.params (s.w.payload.take i.payloadLength)
    (s.w.dropPayload i.payloadLength)
  rw [Packer.commandBits_dropPayload] at hemits
  rw [hx] at hs
  have hwritten : (s.w.dropPayload i.payloadLength).Written _ p :=
    (hemits.written hx).clear hcut hs
  obtain ⟨hv, -⟩ := hemits.of_done hx
  exact ⟨hv, hwritten⟩

/-- Settles O18: the command's body emits its bits, and the emission follows the position law. -/
theorem writesFollowThePositionLaw : Obligations.WritesFollowThePositionLaw := by
  intro i s t result payload he hcut h ha
  have hlen := payload_enough_of_exec he hcut h
  obtain ⟨w, rfl, hw⟩ := exec_packer_ends he h
  obtain ⟨hl, -, p', hx, rfl⟩ := hw.ok ha
  obtain ⟨rfl, hwritten⟩ := packerBody_written he hl hcut hx
  exact ⟨hwritten, Packer.commandBits_length he hl (List.length_take_of_le hlen)⟩

end Sys2Proof.Machine
end


section
/-! PROOFS. The numeric writes and WALIGN complete, and an aligned engine has nothing to do
(41_bit_packer.md R130 to R135, 42_bit_unpacker.md R173). -/

namespace Sys2Proof.Machine

/-! ## Numeric writes -/

/-- A field is made of the value bits below its size, whatever the width of the operand (30_encoding.md
R81). -/
theorem fieldBits_congr {m k size : Nat} {x : BitVec m} {y : BitVec k}
    (h : ∀ j < size, x.getLsbD j = y.getLsbD j) : fieldBits x size = fieldBits y size :=
  List.map_congr_left fun j hj => h _ (by have := List.mem_range.mp hj; omega)

/-- The operand `value[W-1:0]` holds every bit of a field of at most `W` bits (30_encoding.md R95). -/
theorem fieldBits_setWidth {m k size : Nat} (v : BitVec m) (h : size ≤ k) :
    fieldBits (v.setWidth k) size = fieldBits v size :=
  fieldBits_congr fun j hj => by simp [hj.trans_le h]

theorem Packer.commandBits_write {n : Native} {size : Nat} (h : size ≤ n.width) (u : Signedness)
    (value : BitVec 64) (d : List Byte) (p : Packer) :
    p.commandBits (n.write u size value) d = fieldBits value size := by
  cases n with
  | byte => exact fieldBits_setWidth value h
  | short => exact fieldBits_setWidth value h
  | int => exact fieldBits_setWidth value h
  | long => rfl

/-- Settles O20: the command of each width is legal, and its bits are its field. -/
theorem numericWritesWriteTheirField : Obligations.NumericWritesWriteTheirField := by
  intro n u size value s hl hr
  obtain ⟨-, hn⟩ := legalSize_bounds hl
  have hbits := s.w.commandBits_write hn u value (s.w.payload.take 0)
  rw [← fieldBits_length value size] at hr
  cases n
  all_goals
    exact exec_packer_ready (i := Native.write _ u size value) rfl hl (Nat.zero_le _) hbits hr

/-! ## WALIGN -/

theorem le_leastMultiple {boundary : Nat} (hb : 0 < boundary) (k : Nat) :
    k ≤ leastMultiple boundary k := by
  have := leastMultiple_cases hb k
  omega

theorem dvd_leastMultiple (boundary k : Nat) : boundary ∣ leastMultiple boundary k :=
  Nat.dvd_mul_left _ _

theorem leastMultiple_le {boundary k m : Nat} (hb : 0 < boundary) (hk : k ≤ m)
    (hm : boundary ∣ m) : leastMultiple boundary k ≤ m := by
  have hlt := leastMultiple_cases hb k
  exact Nat.le_of_lt_add_of_dvd (by omega) (dvd_leastMultiple boundary k) hm

/-- A writer that wrote its padding is aligned (41 R135). -/
theorem Packer.Written.aligned {boundary : Nat} (hb : 0 < boundary) {p p' : Packer}
    (h : p.Written (List.replicate (p.padding boundary) false) p') :
    p'.cursor = 0#3 ∧
      p'.count = leastMultiple boundary (p.count + if p.cursor.toNat > 0 then 1 else 0) := by
  obtain ⟨hc, hk, -⟩ := h
  have hlt := p.cursor.isLt
  have hle := le_leastMultiple hb (p.count + if p.cursor.toNat > 0 then 1 else 0)
  have hsum : p.cursor.toNat + p.padding boundary =
      8 * (leastMultiple boundary (p.count + if p.cursor.toNat > 0 then 1 else 0) - p.count) := by
    unfold Packer.padding
    split at hle
    · next h0 =>
      rw [if_pos h0]
      omega
    · next h0 =>
      rw [if_neg h0]
      omega
  rw [List.length_replicate, hsum, Nat.mul_mod_right] at hc
  rw [List.length_replicate, Packer.puts, hsum, Nat.mul_div_cancel_left _ (by decide)] at hk
  exact ⟨BitVec.eq_of_toNat_eq hc, by omega⟩

/-- Settles O22: WALIGN emits its padding, which ends at the least multiple of the boundary. -/
theorem walignPadsWithZeros : Obligations.WalignPadsWithZeros := by
  intro boundary s h1 hr
  have hb : 0 < boundary.toNat := by omega
  have hl : s.legal (.walign boundary) = true := decide_eq_true h1
  obtain ⟨t, ht, hwrote⟩ := exec_packer_ready (i := .walign boundary) rfl hl (Nat.zero_le _) rfl
    (by rwa [Packer.commandBits, List.length_replicate])
  rw [Packer.commandBits, List.length_replicate] at hwrote
  have ⟨hwritten, _⟩ := hwrote
  obtain ⟨hcursor, hcount⟩ := hwritten.aligned hb
  refine ⟨t, ht, hwrote, fun h61 => s.w.paddingResult_padding h1 h61, hcursor, ?_⟩
  rw [hcount]
  exact ⟨Nat.mod_eq_zero_of_dvd (dvd_leastMultiple _ _), le_leastMultiple hb _,
    fun m hm h0 => leastMultiple_le hb hm (Nat.dvd_of_mod_eq_zero h0)⟩

/-! ## Aligned engines -/

theorem wAlign_aligned {boundary : Nat} {p : Packer} (hc : p.cursor = 0#3)
    (h0 : p.count % boundary = 0) : wAlign boundary p = .done 0 p := by
  rw [wAlign, if_neg (by simp [hc])]
  cases boundary with
  | zero => rfl
  | succ b => rw [wPad, if_pos h0]

theorem rAlign_aligned {boundary : Nat} {q : Unpacker} (hc : q.cursor = 0#3)
    (h0 : q.count % boundary = 0) : rAlign boundary q = .done 0 q := by
  rw [rAlign, if_neg (by simp [hc])]
  cases boundary with
  | zero => rfl
  | succ b => rw [rSkip, if_pos h0]

/-- Settles O23: no padding is due, so no transfer is made. -/
theorem alignIsIdempotent : Obligations.AlignIsIdempotent := by
  intro boundary s h1
  refine ⟨fun hu hcut hc h0 => ?_, fun hu hcut hc h0 => ?_⟩
  · have hx : packerBody (.walign boundary) s.w.params [] s.w = .done 0#64 s.w := by
      rw [packerBody, wAlign_aligned hc h0, Run.bind_done, paddingResult_zero]
    exact exec_packer_done (i := .walign boundary) rfl (decide_eq_true h1) hu hcut (Nat.zero_le _) hx
  · have hx : unpackerBody (.ralign boundary) s.r.params s.r = .done (0#64, []) s.r := by
      rw [unpackerBody, rAlign_aligned hc h0, Run.bind_done, paddingResult_zero]
      rfl
    rw [exec_unpacker_usable (i := .ralign boundary) rfl (decide_eq_true h1) hu, hx, finishUnpacker,
      s.r.respond_of_cut_none hcut]

end Sys2Proof.Machine
end


section
/-! PROOFS. Writes read neither `SINK` nor the value bits above `size - 1` (41_bit_packer.md R137). -/

namespace Sys2Proof.Machine

/-! ## Value bits -/

/-- A numeric write reads the bits of its field only (41 R137). -/
theorem writeNumeric_congr {m size : Nat} {x y : BitVec m} (n : Native) (u : Signedness) (s : State)
    (h : fieldBits x size = fieldBits y size) :
    writeNumeric n u size x s = writeNumeric n u size y s := by
  rw [writeNumeric, writeNumeric, bitsOf_eq_fieldBits, bitsOf_eq_fieldBits, h]

theorem exec_write_congr {size : Nat} {x y : BitVec 64} (n : Native) (u : Signedness) (s : State)
    (h : ∀ j < size, x.getLsbD j = y.getLsbD j) :
    exec (n.write u size x) s = exec (n.write u size y) s := by
  have hset (k : Nat) : fieldBits (x.setWidth k) size = fieldBits (y.setWidth k) size :=
    fieldBits_congr fun j hj => by rw [BitVec.getLsbD_setWidth, BitVec.getLsbD_setWidth, h j hj]
  cases n with
  | byte => exact writeNumeric_congr .byte u s (hset 8)
  | short => exact writeNumeric_congr .short u s (hset 16)
  | int => exact writeNumeric_congr .int u s (hset 32)
  | long => exact writeNumeric_congr .long u s (fieldBits_congr h)

theorem execWchar_congr {size : Nat} {x y : BitVec 16} (s : State)
    (h : ∀ j < size, x.getLsbD j = y.getLsbD j) : execWchar size x s = execWchar size y s := by
  rw [execWchar, execWchar, bitsOf_eq_fieldBits, bitsOf_eq_fieldBits, fieldBits_congr h]

/-! ## Another content of `SINK` -/

/-- The writer with `other` for the first `n` bytes of `SINK`: with `n` the length of `SINK` at the start of a
command, what the command has appended stays. -/
def Packer.replaceSink (n : Nat) (other : List Byte) (p : Packer) : Packer :=
  { p with sink := other ++ p.sink.drop n }

/-- The machine with `other` for the first `n` bytes of `SINK`. -/
def State.replaceSink (n : Nat) (other : List Byte) (s : State) : State :=
  { s with w := s.w.replaceSink n other }

/-- The same end of a run, in another state. -/
def Run.mapState {σ α : Type} (f : σ → σ) : Run σ α → Run σ α
  | .done a s => .done a (f s)
  | .halted h s => .halted h (f s)

section
variable {n : Nat} (other : List Byte) {p : Packer}

@[simp] theorem Packer.replaceSink_cursor : (p.replaceSink n other).cursor = p.cursor := rfl
@[simp] theorem Packer.replaceSink_partialByte :
    (p.replaceSink n other).partialByte = p.partialByte := rfl
@[simp] theorem Packer.replaceSink_cut : (p.replaceSink n other).cut = p.cut := rfl
@[simp] theorem Packer.replaceSink_answers : (p.replaceSink n other).answers = p.answers := rfl
@[simp] theorem Packer.replaceSink_count : (p.replaceSink n other).count = p.count := rfl
@[simp] theorem Packer.replaceSink_params : (p.replaceSink n other).params = p.params := rfl

theorem Packer.replaceSink_appended {new : List Byte} {p : Packer} (base : List Byte)
    (h : p.sink = base ++ new) :
    p.replaceSink base.length other = { p with sink := other ++ new } := by
  rw [Packer.replaceSink, h, List.drop_left]

theorem Packer.replaceSink_all (p : Packer) :
    p.replaceSink p.sink.length other = { p with sink := other } := by
  rw [Packer.replaceSink, List.drop_length, List.append_nil]

theorem Packer.replaceSink_respond (a : Response) :
    (p.replaceSink n other).respond a = (p.respond a).replaceSink n other := by
  unfold Packer.respond
  rw [Packer.replaceSink]
  cases p.cut <;> rfl

theorem Packer.replaceSink_raise (st : Status) :
    (p.replaceSink n other).raise st = (p.raise st).replaceSink n other := by
  cases st with
  | errIo => exact Packer.replaceSink_respond (p := p.latch) other _
  | errState => exact Packer.replaceSink_respond other _
  | errValidation => exact Packer.replaceSink_respond other _
  | ok => exact Packer.replaceSink_respond other _

theorem Packer.replaceSink_accept (hn : n ≤ p.sink.length) (b : Byte) (o : Oracle) :
    (p.replaceSink n other).accept b o = (p.accept b o).replaceSink n other := by
  rw [Packer.replaceSink, Packer.replaceSink, Packer.accept_sink, List.drop_append_of_le_length hn,
    ← List.append_assoc]
  rfl

/-- Offering a byte does not look at `SINK` (20_memory.md R52). -/
theorem Packer.replaceSink_sinkPut (hn : n ≤ p.sink.length) (b : Byte) :
    (p.replaceSink n other).sinkPut b = (p.sinkPut b).mapState (Packer.replaceSink n other) := by
  obtain ⟨hc, e⟩ | ⟨hc, o, ⟨ha, e⟩ | ⟨ha, e⟩ | ⟨ha, hr, e⟩ | ⟨ha, hr, e⟩⟩ := p.sinkPut_cases b <;>
    rw [e]
  · simp [Packer.sinkPut, hc, Run.mapState]
  · simp [Packer.sinkPut, hc, ha, Run.mapState]
  · simp [Packer.sinkPut, hc, ha, Run.mapState, Packer.replaceSink]
  · simp [Packer.sinkPut, hc, ha, hr, Run.mapState, Packer.replaceSink_accept other hn]
  · simp [Packer.sinkPut, hc, ha, hr, Run.mapState]

theorem wPlace_replaceSink (hn : n ≤ p.sink.length) (v : Bits) :
    wPlace v (p.replaceSink n other) = (wPlace v p).mapState (Packer.replaceSink n other) := by
  by_cases h : p.cursor.toNat + v.length = 8 <;>
    simp only [wPlace, Packer.replaceSink_cursor, Packer.replaceSink_partialByte, h, if_true, if_false]
  · exact Packer.replaceSink_sinkPut (p := { p with
      partialByte := setPartialBits p.partialByte p.cursor.toNat v, cursor := 0#3 }) other hn _
  · rfl

theorem Packer.Sends.sink_length_le {p p' : Packer} (h : p.Sends p') :
    p.sink.length ≤ p'.sink.length := by
  obtain ⟨new, hs, -⟩ := h.sent
  simp [hs]

/-- The emission of bits does not look at `SINK` (41 R137). -/
theorem emitAll_replaceSink (hn : n ≤ p.sink.length) (v : Bits) :
    emitAll v (p.replaceSink n other) = (emitAll v p).mapState (Packer.replaceSink n other) := by
  induction v generalizing p with
  | nil => rfl
  | cons b v ih =>
    have hs := wPlace_sends [b] p
    rw [emitAll, emitAll, wPlace_replaceSink other hn]
    cases hx : wPlace [b] p with
    | done _ p' =>
      rw [hx] at hs
      exact ih (hn.trans hs.sink_length_le)
    | halted h p' => rfl

theorem sameWrites.replaceSink {x y : Run Packer Unit} (h : sameWrites x y) :
    sameWrites (x.mapState (Packer.replaceSink n other)) (y.mapState (Packer.replaceSink n other)) := by
  cases x with
  | done _ p =>
    cases y with
    | done _ p' =>
      obtain ⟨hp, heq⟩ := h
      exact ⟨hp, congrArg (Packer.replaceSink n other) heq⟩
    | halted _ _ => exact h.elim
  | halted _ p =>
    cases y with
    | done _ _ => exact h.elim
    | halted _ p' =>
      obtain ⟨hk, heq⟩ := h
      exact ⟨hk, congrArg (Packer.replaceSink n other) heq⟩

/-- What makes the transfers of an emission makes them with another content of `SINK`, too. -/
theorem Emits.replaceSink {α : Type} {v : Bits} {a : α} {x : Run Packer α}
    (h : Emits v a p x) (hn : n ≤ p.sink.length) :
    Emits v a (p.replaceSink n other) (x.mapState (Packer.replaceSink n other)) := by
  obtain ⟨hs, ha⟩ := h
  have hs := hs.replaceSink (n := n) other
  rw [← emitAll_replaceSink other hn] at hs
  cases x with
  | done a' t => exact ⟨hs, fun _ _ e => by cases e; exact ha _ _ rfl⟩
  | halted k t => exact ⟨hs, fun _ _ e => by cases e⟩

theorem Packer.commandBits_replaceSink (i : Instr) (d : List Byte) (p : Packer) :
    (p.replaceSink n other).commandBits i d = p.commandBits i d := by
  cases i <;> rfl

theorem State.legal_replaceSink (i : Instr) (s : State) :
    (s.replaceSink n other).legal i = s.legal i := by
  cases i <;> rfl

theorem finishPacker_replaceSink {x : Run Packer (BitVec 64)} {s t : State}
    (h : finishPacker x s = .next t) :
    finishPacker (x.mapState (Packer.replaceSink n other)) (s.replaceSink n other) =
      .next (t.replaceSink n other) := by
  obtain ⟨v, p, rfl, rfl⟩ | ⟨p, rfl, rfl⟩ | ⟨p, rfl, rfl⟩ := finishPacker_next h
  · rw [Run.mapState, finishPacker, Packer.replaceSink_respond]
    rfl
  · rw [Run.mapState, finishPacker, Packer.replaceSink_raise]
    rfl
  · rfl

/-- A `PACKER` command that has a next state has the same one, up to the spare bits, with another content of
`SINK` (41 R137). -/
theorem exec_replaceSink {i : Instr} {s t : State} (he : i.engine = .packer)
    (h : exec i s = .next t) (hn : n ≤ s.w.sink.length) :
    sameOutcome (exec i (s.replaceSink n other)) (.next (t.replaceSink n other)) := by
  have hlegal := State.legal_replaceSink (n := n) other i s
  have hrun (hlen : i.payloadLength ≤ s.w.payload.length) : exec i (s.replaceSink n other) =
      packerWork (s.legal i) (packerBody i s.w.params (s.w.payload.take i.payloadLength))
        ((s.w.dropPayload i.payloadLength).replaceSink n other) (s.replaceSink n other) := by
    rw [exec_packer _ he, hlegal]
    exact packerRun_enough hlen
  rw [exec_packer s he] at h
  obtain ⟨hlen, hcut, rfl⟩ | ⟨hlen, p, rfl, ⟨hl, rfl⟩ | ⟨hl, hu, rfl⟩ | ⟨hl, hu, h⟩⟩ :=
    packerRun_next h
  · obtain ⟨k, hk⟩ := Option.isSome_iff_exists.mp hcut
    rw [exec_packer _ he, packerRun_missing_cut (s := s.replaceSink n other) hlen hk]
    exact .refl _
  · rw [hrun hlen, hl, packerWork_illegal, Packer.replaceSink_raise]
    exact .refl _
  · rw [hrun hlen, hl,
      packerWork_unusable (p := (s.w.dropPayload i.payloadLength).replaceSink n other) hu,
      Packer.replaceSink_raise]
    exact .refl _
  · rw [hrun hlen, hl,
      packerWork_usable (p := (s.w.dropPayload i.payloadLength).replaceSink n other) hu,
      ← finishPacker_replaceSink other h]
    have hemits := (packerBody_emits he hl (s.w.payload.take i.payloadLength)
      (p := s.w.dropPayload i.payloadLength) rfl).replaceSink other hn
    have hemits' := packerBody_emits he (hlegal.trans hl) (s.w.payload.take i.payloadLength)
      (p := (s.w.dropPayload i.payloadLength).replaceSink n other) rfl
    rw [Packer.commandBits_replaceSink] at hemits'
    exact hemits'.sameOutcome hemits _

end

/-- However a `PACKER` command ends, bytes are only appended to `SINK` (20_memory.md R52). -/
theorem Packer.Ends.sink_append {p w : Packer} {legal : Bool} {x : Run Packer (BitVec 64)}
    (h : p.Ends legal x w) : ∃ new, w.sink = p.sink ++ new := by
  cases h with
  | invalid => exact ⟨[], (List.append_nil _).symm⟩
  | unusable => exact ⟨[], (List.append_nil _).symm⟩
  | done _ _ _ hs => exact hs.sent.imp fun _ => And.left
  | io _ _ _ hs => exact hs.sent.imp fun _ => And.left
  | reset _ hs => exact hs.sent.imp fun _ => And.left
  | ioReset _ _ _ hs => exact hs.sent.imp fun _ => And.left

/-- An outcome like a next state is a next state like it. -/
theorem sameOutcome.next {x : Host.Outcome State Fault Refusal} {t : State}
    (h : sameOutcome x (.next t)) : ∃ t', x = .next t' ∧ t'.sameButSpare t := by
  cases x with
  | next t' => exact ⟨t', rfl, h⟩
  | fault f => exact h.elim
  | refused f => exact h.elim

/-- `SINK` holds meaning, all of it. -/
theorem State.sameButSpare.sink {t t' : State} (h : t.sameButSpare t') : t.w.sink = t'.w.sink := by
  obtain ⟨-, hw, -⟩ := h
  have hsink := congrArg Packer.sink hw
  exact hsink

/-- Settles O25: a write goes by the bits of its field, and its body by their emission, which does not look
at `SINK`. -/
theorem writesReadNeitherSinkNorHighBits : Obligations.WritesReadNeitherSinkNorHighBits := by
  refine ⟨fun n u size x y s h => ?_, fun size x y s h => ?_, fun i s t he h => ?_⟩
  · rw [exec_write_congr n u s h]
    exact .refl _
  · rw [exec, exec, execWchar_congr s h]
    exact .refl _
  · obtain ⟨w, rfl, hw⟩ := exec_packer_ends he h
    obtain ⟨new, hnew⟩ := hw.sink_append
    refine ⟨rfl, new, hnew, fun other => ?_⟩
    have hsame := exec_replaceSink other he h le_rfl
    rw [State.replaceSink, State.replaceSink, Packer.replaceSink_all,
      Packer.replaceSink_appended other s.w.sink hnew] at hsame
    obtain ⟨t', ht', hspare⟩ := hsame.next
    exact ⟨t', ht', hspare.sink, hspare⟩

end Sys2Proof.Machine
end


section
/-! PROOFS. The read procedures take bit by bit, and every read command follows the position law
(42_bit_unpacker.md R166, R174). -/

namespace Sys2Proof.Machine

/-- Settles O26: each procedure is the reading of its bits, cut into chunks or not. -/
theorem readProceduresTakeBitByBit : Obligations.ReadProceduresTakeBitByBit := fun n q h1 =>
  ⟨rU8_eq_takeAll h1, fun _ => rU16_eq_takeAll n q, fun _ => rU32_eq_takeAll n q,
    fun _ => rU64_eq_takeAll n q, fun _ => rSigned_eq_takeAll h1⟩

/-- RALIGN discards no more than `boundary` bytes (42 R173). -/
theorem Unpacker.padding_le {boundary : Nat} (hb : 0 < boundary) (q : Unpacker) :
    q.padding boundary ≤ 8 * boundary := by
  have := leastMultiple_cases hb q.count
  unfold Unpacker.padding
  split <;> omega

/-- Below a boundary of `2^61` the number of discarded bits fits `RESULT` (30_encoding.md R99, log 29). -/
theorem Unpacker.paddingResult_padding {boundary : Int} (h1 : 1 ≤ boundary)
    (h61 : boundary < 2 ^ 61) (q : Unpacker) :
    (paddingResult (q.padding boundary.toNat)).toNat = q.padding boundary.toNat := by
  have := q.padding_le (boundary := boundary.toNat) (by omega)
  exact paddingResult_toNat (by omega)

/-- A reading that returns returns the next bits of the stream, all of them (42 R160, R166). -/
theorem takeAll_eq_take {n : Nat} {q q' : Unpacker} {v : Bits} (h : takeAll n q = .done v q') :
    v = q.stream.take n ∧ (q.stream.take n).length = n := by
  obtain ⟨hl, hs⟩ := takeAll_stream h
  have hv : q.stream.take n = v := by rw [hs, ← hl, List.take_left]
  exact ⟨hv.symm, hv ▸ hl⟩

/-- A legal command whose pseudocode returns has consumed the next bits of the stream and returns their
value (42 R174). -/
theorem unpackerBody_consumed {i : Instr} {s : State} {a : BitVec 64 × List Byte} {q : Unpacker}
    (he : i.engine = .unpacker) (hl : s.legal i = true) (hcut : s.r.cut = none)
    (hx : unpackerBody i s.r.params s.r = .done a q) :
    a = readValue i s.r.params (s.r.stream.take (s.r.commandLength i)) ∧
      (s.r.stream.take (s.r.commandLength i)).length = s.r.commandLength i ∧
      s.r.Consumed (s.r.commandLength i) q := by
  have hpulls : s.r.Pulls q := by simpa [hx] using unpackerBody_pulls i s.r.params s.r
  rw [unpackerBody_eq_takeAll he hl] at hx
  obtain ⟨v, q₁, htake, hd⟩ := Run.bind_eq_done hx
  obtain ⟨rfl, rfl⟩ := Run.done.inj hd
  obtain ⟨rfl, hlen⟩ := takeAll_eq_take htake
  exact ⟨rfl, hlen, (takeAll_consumed htake).clear hcut hpulls⟩

/-- The count that a byte-sequence read returns is the one its length was taken from (43 R205, R211). -/
theorem Unpacker.sequenceLength_eq {scale range : Nat} (h31 : scale ≤ 31) (q : Unpacker) :
    q.sequenceLength scale range =
      scale + (sequenceOf scale range (q.stream.take (q.sequenceLength scale range))).1.toNat *
        range := by
  have hle : scale ≤ q.sequenceLength scale range := Nat.le_add_right _ _
  have hlt : uint (q.stream.take scale) < 2 ^ 64 := (uint_lt _).trans_le
    (Nat.pow_le_pow_right (by decide) ((List.length_take_le _ _).trans (h31.trans (by decide))))
  rw [sequenceOf, List.take_take, Nat.min_eq_left hle, BitVec.toNat_ofNat, Nat.mod_eq_of_lt hlt]
  rfl

/-- A legal command that a word can carry consumes as many bits as R174 says (42 R174). -/
theorem Unpacker.commandLength_eq_readLength {i : Instr} {s : State} (he : i.engine = .unpacker)
    (hl : s.legal i = true) (hlen : (s.r.stream.take (s.r.commandLength i)).length =
      s.r.commandLength i)
    (hwf : i.wellFormed s.r.params.boundaryW = true) (hw : s.r.params.boundaryW ≤ 62) :
    s.r.commandLength i = s.r.readLength i
      (readValue i s.r.params (s.r.stream.take (s.r.commandLength i))).1 := by
  cases i
  case rbool => rfl
  case rbyte => rfl
  case rshort => rfl
  case rint => rfl
  case rlong => rfl
  case rchar => rfl
  case ralign boundary =>
    rw [State.legal, legalBoundary, decide_eq_true_eq] at hl
    rw [readValue, hlen]
    exact (s.r.paddingResult_padding hl (fitsBoundary_lt hw hwf)).symm
  case rbytes => exact s.r.sequenceLength_eq (sequence_bounds hl).2.1
  case rstr => exact s.r.sequenceLength_eq (sequence_bounds hl).2.1
  case rascii => exact s.r.sequenceLength_eq (sequence_bounds hl).2.1
  all_goals cases he

/-- Settles O27: the command's body takes its bits, and the taking follows the position law. -/
theorem readsFollowThePositionLaw : Obligations.ReadsFollowThePositionLaw := by
  intro i s t result payload he hcut h ha
  obtain ⟨r, rfl, hr⟩ := exec_unpacker_ends he h
  obtain ⟨hl, q, hx, rfl⟩ := hr.ok ha
  obtain ⟨hv, hlen, hconsumed⟩ := unpackerBody_consumed he hl hcut hx
  obtain rfl := congrArg Prod.fst hv
  exact ⟨hconsumed, Unpacker.commandLength_eq_readLength he hl hlen⟩

/-- Transfers take bytes off the front of `SRC`, and leave `bound` and the parameters (42 R176). -/
theorem Unpacker.Pulls.source_suffix {q q' : Unpacker} (h : q.Pulls q') :
    q'.source <:+ q.source ∧ q'.bound = q.bound ∧ q'.params = q.params := by
  obtain ⟨gone, hsrc, -⟩ := h.pulled
  exact ⟨⟨gone, hsrc.symm⟩, h.bound, h.params⟩

/-- However an `UNPACKER` command ends, it takes bytes off the front of `SRC` at most (42 R176). -/
theorem Unpacker.Ends.source_suffix {q r : Unpacker} {legal : Bool}
    {x : Run Unpacker (BitVec 64 × List Byte)} (h : q.Ends legal x r) :
    r.source <:+ q.source ∧ r.bound = q.bound ∧ r.params = q.params := by
  cases h with
  | invalid => exact (Unpacker.Pulls.refl q).source_suffix
  | unusable => exact (Unpacker.Pulls.refl q).source_suffix
  | done _ _ hx hr => subst hx; exact hr.pulls.source_suffix
  | io _ _ hx hr => subst hx; exact hr.pulls.source_suffix
  | reset _ hs => exact hs.source_suffix
  | ioReset _ _ hx hr => subst hx; exact hr.pulls.source_suffix

/-- Settles O32: each way a read command can end keeps the frame. -/
theorem readsOnlyConsumeTheSource : Obligations.ReadsOnlyConsumeTheSource := by
  intro i s t he h
  obtain ⟨r, rfl, hr⟩ := exec_unpacker_ends he h
  exact ⟨rfl, rfl, hr.source_suffix⟩

end Sys2Proof.Machine
end


section
/-! PROOFS. An `UNPACKER` command whose transfers are all answered completes (42_bit_unpacker.md R167 to
R173, 30_encoding.md R97). -/

namespace Sys2Proof.Machine

theorem Unpacker.ready_iff {k : Nat} {q : Unpacker} : q.ready k = true ↔
    q.usable = true ∧ q.cut = none ∧ q.answers.okFor k = true ∧ k ≤ q.source.length ∧
      q.count + k < 2 ^ q.params.cntW := by
  simp [Unpacker.ready, Unpacker.usable, and_assoc]

/-- A legal command of a reader that is ready for its transfers completes: it consumes the next bits of the
stream and answers OK with their value (42 R174). -/
theorem exec_unpacker_ready {i : Instr} {s : State} {n : Nat} {v : Bits} (he : i.engine = .unpacker)
    (hl : s.legal i = true) (hn : s.r.commandLength i = n) (hv : s.r.stream.take n = v)
    (hr : s.r.ready (s.r.gets n) = true) :
    v.length = n ∧ ∃ t, exec i s = .next t ∧
      s.Read n (readValue i s.r.params v).1 (readValue i s.r.params v).2 t := by
  subst hn hv
  obtain ⟨hu, hcut, ho, hsrc, hroom⟩ := Unpacker.ready_iff.mp hr
  obtain ⟨v, q, htake, -⟩ := takeAll_ready hcut hsrc ho hroom
  have hx := unpackerBody_eq_takeAll he hl
  rw [htake, Run.bind_done] at hx
  obtain ⟨hv, hlen, hconsumed⟩ := unpackerBody_consumed he hl hcut hx
  rw [← hv]
  exact ⟨hlen, _, exec_unpacker_done he hcut hl hu hx, hconsumed, rfl, rfl, rfl⟩

/-- Settles O28: RBOOL is always legal, and its length is one bit. -/
theorem rboolReturnsTheNextBit : Obligations.RboolReturnsTheNextBit := by
  intro s hr
  obtain ⟨hlen, t, ht, hread⟩ := exec_unpacker_ready (i := .rbool) rfl rfl rfl rfl hr
  obtain ⟨b, hb⟩ := List.length_eq_one_iff.mp hlen
  have hvalue : zext64 [b] = if b then 1#64 else 0#64 := by cases b <;> rfl
  rw [hb] at hread
  exact ⟨t, b, ht, hb, hvalue ▸ hread⟩

/-- `sint` of flag and magnitude (00_scope.md R10, 42 R165). -/
theorem sint_cons (b : Bool) (v : Bits) :
    sint (b :: v) = (uint v : Int) - if b then 2 ^ v.length else 0 := by
  cases b
  · simp [sint, uint]
  · simp only [sint, uint, Bool.toNat_true, if_true, List.length_cons]
    push_cast
    ring

theorem Unpacker.commandLength_read (n : Native) (u : Signedness) (size : Nat) (q : Unpacker) :
    q.commandLength (n.read u size) = size := by
  cases n <;> rfl

theorem readValue_read (n : Native) (u : Signedness) (size : Nat) (c : Params) (v : Bits) :
    readValue (n.read u size) c v = (fieldValue u v, []) := by
  cases n <;> rfl

theorem engine_read (n : Native) (u : Signedness) (size : Nat) :
    (n.read u size).engine = .unpacker := by
  cases n <;> rfl

theorem State.legal_read (n : Native) (u : Signedness) (size : Nat) (s : State) :
    s.legal (n.read u size) = legalSize n u size := by
  cases n <;> rfl

/-- A numeric read of a legal size completes at each of the four widths (42 R168 to R171). -/
theorem exec_read_ready {n : Native} {u : Signedness} {size : Nat} {s : State} {v : Bits}
    (hl : legalSize n u size = true) (hv : s.r.stream.take size = v)
    (hr : s.r.ready (s.r.gets size) = true) :
    v.length = size ∧ ∃ t, exec (n.read u size) s = .next t ∧ s.Read size (fieldValue u v) [] t := by
  have h := exec_unpacker_ready (engine_read n u size) ((s.legal_read n u size).trans hl)
    (s.r.commandLength_read n u size) hv hr
  rwa [readValue_read] at h

/-- Settles O29: the value of a signed field is read off its flag and magnitude. -/
theorem numericReadsReturnTheirField : Obligations.NumericReadsReturnTheirField := by
  intro n u size s v hl hr hv
  obtain ⟨hlen, t, ht, hread⟩ := exec_read_ready hl hv.symm hr
  refine ⟨t, ht, hlen, ?_⟩
  cases u with
  | unsigned => exact hread
  | signed =>
    obtain ⟨h1, -⟩ := legalSize_bounds hl
    obtain ⟨b, w, rfl⟩ := List.exists_cons_of_length_pos (h1.trans hlen.ge)
    rw [fieldValue, sext64, sint_cons] at hread
    simpa [← hlen] using hread

/-- Settles O30: such an RCHAR is legal, and its length is its size. -/
theorem rcharReturnsItsField : Obligations.RcharReturnsItsField := by
  intro size s h1 h16 hr
  have hl : s.legal (.rchar size) = true := by
    simp [State.legal, legalChar, Config.charMax, h1, h16]
  exact (exec_unpacker_ready (i := .rchar size) rfl hl rfl rfl hr).2

/-- A reader that consumed its padding is aligned (42 R173). -/
theorem Unpacker.Consumed.aligned {boundary : Nat} (hb : 0 < boundary) {q q' : Unpacker}
    (h : q.Consumed (q.padding boundary) q') :
    q'.cursor = 0#3 ∧ q'.count = leastMultiple boundary q.count := by
  obtain ⟨hc, hk, -⟩ := h
  have hlt := q.cursor.isLt
  have hle := le_leastMultiple hb q.count
  simp only [Unpacker.gets, Unpacker.padding] at hc hk
  rw [← BitVec.toNat_inj, BitVec.toNat_ofNat]
  split at hc
  · next h0 =>
    rw [if_pos h0, if_pos h0] at hk
    omega
  · next h0 =>
    rw [if_neg h0, if_neg h0] at hk
    omega

/-- Settles O31: RALIGN takes its padding, which ends at the least multiple of the boundary. -/
theorem ralignDiscardsToTheBoundary : Obligations.RalignDiscardsToTheBoundary := by
  intro boundary s h1 hr
  have hb : 0 < boundary.toNat := by omega
  obtain ⟨hlen, t, ht, hread⟩ :=
    exec_unpacker_ready (i := .ralign boundary) rfl (decide_eq_true h1) rfl rfl hr
  rw [readValue, hlen] at hread
  have ⟨hconsumed, _⟩ := hread
  obtain ⟨hcursor, hcount⟩ := hconsumed.aligned hb
  refine ⟨t, ht, hread, fun h61 => s.r.paddingResult_padding h1 h61, hcursor, ?_⟩
  rw [hcount]
  exact ⟨Nat.mod_eq_zero_of_dvd (dvd_leastMultiple _ _), le_leastMultiple hb _,
    fun m hm h0 => leastMultiple_le hb hm (Nat.dvd_of_mod_eq_zero h0)⟩

end Sys2Proof.Machine
end


section
/-! PROOFS. Round trips: what the writer appended is read back from the mirror position
(42_bit_unpacker.md R175). -/

namespace Sys2Proof.Machine

/-! ## Bits of bytes, values of fields -/

/-- A group of eight bits is the bits of its byte (20_memory.md R57). -/
theorem fieldBits_byteOf {v : Bits} (h : 8 ≤ v.length) : fieldBits (byteOf v) 8 = v.take 8 := by
  have hlen : (v.take 8).length = 8 := List.length_take_of_le h
  apply List.ext_getElem
  · rw [fieldBits_length, hlen]
  · intro j hj hj'
    rw [hlen] at hj'
    have hbit := uint_testBit (v := v.take 8) (j := j) (by omega)
    rw [hlen] at hbit
    simp only [← hbit, fieldBits, List.getElem_map, List.getElem_range, byteOf,
      BitVec.getLsbD_ofNat, decide_eq_true (show 8 - 1 - j < 8 by omega), Bool.true_and]

/-- Whole bytes hold their bits (20_memory.md R57, 41_bit_packer.md R136). -/
theorem bitsOfBytes_bytesOf {k : Nat} {v : Bits} (h : v.length = 8 * k) :
    bitsOfBytes (bytesOf k v) = v := by
  induction k generalizing v with
  | zero => exact (List.eq_nil_of_length_eq_zero h).symm
  | succ k ih =>
    have hrest : bitsOfBytes (bytesOf k (v.drop 8)) = v.drop 8 := ih (by simp [h]; omega)
    rw [bytesOf, bitsOfBytes, List.flatMap_cons, fieldBits_byteOf (by omega)]
    exact (congrArg (v.take 8 ++ ·) hrest).trans (List.take_append_drop 8 v)

/-- The value of a field is the value of its low bits (30_encoding.md R81, 00_scope.md R10). -/
theorem uint_fieldBits {m : Nat} (x : BitVec m) (n : Nat) :
    uint (fieldBits x n) = x.toNat % 2 ^ n := by
  rw [← bitsOf_eq_fieldBits]
  induction n with
  | zero => simp [bitsOf, uint, Nat.mod_one]
  | succ n ih =>
    rw [bitsOf, uint, ih, bitsOf_length, BitVec.getLsbD, Nat.toNat_testBit, Nat.mod_pow_succ]
    ring

/-- A field extended with zeros, to a result or to an element (00_scope.md R10). -/
theorem ofNat_uint_fieldBits {m : Nat} (k : Nat) (x : BitVec m) (n : Nat) :
    BitVec.ofNat k (uint (fieldBits x n)) = (x.extractLsb' 0 n).zeroExtend k := by
  apply BitVec.eq_of_toNat_eq
  simp [uint_fieldBits]

/-- A field read as a signed number (00_scope.md R10). -/
theorem sint_fieldBits {m n : Nat} (x : BitVec m) (h1 : 1 ≤ n) :
    sint (fieldBits x n) = (x.extractLsb' 0 n).toInt := by
  obtain ⟨n, rfl⟩ := Nat.exists_eq_add_of_le' h1
  have hvalue := uint_fieldBits x (n + 1)
  rw [← bitsOf_eq_fieldBits, bitsOf, uint, bitsOf_length] at hvalue
  have hmsb : (x.extractLsb' 0 (n + 1)).msb = x.getLsbD n := by simp [BitVec.msb_eq_getLsbD_last]
  rw [← bitsOf_eq_fieldBits, bitsOf, sint_cons, bitsOf_length, BitVec.toInt_eq_msb_cond, hmsb,
    BitVec.extractLsb'_toNat, Nat.shiftRight_zero, ← hvalue]
  cases x.getLsbD n
  · simp
  · simp only [Bool.toNat_true, if_true]
    push_cast
    ring

/-! ## The stream at the mirror position -/

/-- At the mirror position the reader's stream is that of the bytes, behind the bits the writer had pending
(42 R175). -/
theorem Unpacker.AtMirror.stream_eq {p : Packer} {d : List Byte} {q : Unpacker}
    (h : q.AtMirror p d) : q.stream = (bitsOfBytes d).drop p.cursor.toNat := by
  obtain ⟨hc, hd⟩ := h
  have hlt := p.cursor.isLt
  rw [Unpacker.stream, Unpacker.pending, hc]
  split at hd
  · next h0 => rw [if_pos h0, hd, h0]; rfl
  · next h0 =>
    rw [if_neg h0, ← hd, bitsOfBytes, bitsOfBytes, List.flatMap_cons,
      List.drop_append_of_le_length (by rw [fieldBits_length]; omega)]

/-- What the writer appended, once it is aligned again, holds the pending bits and those written since
(41_bit_packer.md R136). -/
theorem Packer.Written.bitsOfBytes_appended {v : Bits} {p p' : Packer} {d : List Byte}
    (h : p.Written v p') (h0 : p'.cursor = 0#3) (hd : p'.sink = p.sink ++ d) :
    bitsOfBytes d = p.pending ++ v := by
  obtain ⟨hc, -, hs, -⟩ := h
  obtain rfl := List.append_cancel_left (hd.symm.trans hs)
  rw [h0] at hc
  refine bitsOfBytes_bytesOf ?_
  rw [List.length_append, Packer.pending_length, Packer.puts,
    Nat.mul_div_cancel' (Nat.dvd_of_mod_eq_zero hc.symm)]

/-- After a write command and WALIGN 1, the reader at the mirror position finds the bits of the command
(42 R175). -/
theorem stream_take_roundTrip {i : Instr} {s t a : State} {result pad : BitVec 64} {q : Unpacker}
    {d more : List Byte} {bits : Bits} (he : i.engine = .packer) (hcut : s.w.cut = none)
    (hbits : s.w.commandBits i (s.w.payload.take i.payloadLength) = bits)
    (hwrite : exec i s = .next t) (hok : t.w.response = some ⟨.ok, result, []⟩)
    (halign : exec (.walign 1) t = .next a) (hpad : a.w.response = some ⟨.ok, pad, []⟩)
    (hd : a.w.sink = s.w.sink ++ d) (hq : q.AtMirror s.w (d ++ more)) :
    q.stream.take bits.length = bits := by
  have ⟨hw, _⟩ := writesFollowThePositionLaw i s t _ _ he hcut hwrite hok
  have ⟨_, _, _, _, _, _, _, hcut', _⟩ := hw
  have ⟨hw', _⟩ := writesFollowThePositionLaw (.walign 1) t a _ _ rfl (hcut'.trans hcut) halign hpad
  obtain ⟨h0, -⟩ := Packer.Written.aligned (boundary := 1) (by decide) hw'
  rw [hbits] at hw
  have happended := (hw.trans hw').bitsOfBytes_appended h0 hd
  have hsplit : bitsOfBytes (d ++ more) = bitsOfBytes d ++ bitsOfBytes more := List.flatMap_append
  rw [hq.stream_eq, hsplit, happended, ← Packer.pending_length, List.append_assoc, List.drop_left,
    List.append_assoc, List.take_left]

/-! ## Numeric fields -/

theorem engine_write (n : Native) (u : Signedness) (size : Nat) (value : BitVec 64) :
    (n.write u size value).engine = .packer := by
  cases n <;> rfl

/-- Settles O52: the reader takes the bits of the field, which are those the writer emitted. -/
theorem numericFieldRoundTrips : Obligations.NumericFieldRoundTrips := by
  rintro n u size value s t a q d more hl hcut hwrite hok ⟨pad, halign, hpad⟩ hd hq hr
  obtain ⟨h1, hn⟩ := legalSize_bounds hl
  have hbits := stream_take_roundTrip (engine_write n u size value) hcut
    (s.w.commandBits_write hn u value _) hwrite hok halign hpad hd hq
  rw [fieldBits_length] at hbits
  obtain ⟨-, b, hb, -, hresponse, -⟩ := exec_read_ready (s := { a with r := q }) hl hbits hr
  refine ⟨b, _, hb, hresponse, ?_⟩
  cases u with
  | unsigned => exact ofNat_uint_fieldBits 64 value size
  | signed => exact congrArg (BitVec.ofInt 64) (sint_fieldBits value h1)

/-! ## Byte sequences -/

/-- The elements are read off their bits one by one, each cut to `range` bits (43 R205, R212). -/
theorem elementsOf_flatMap {m : Nat} (range : Nat) (d : List (BitVec m)) :
    elementsOf range d.length (d.flatMap fun b => fieldBits b range) =
      d.map fun b => (b.extractLsb' 0 range).zeroExtend 8 := by
  induction d with
  | nil => rfl
  | cons b d ih =>
    rw [List.flatMap_cons, List.length_cons, elementsOf,
      List.take_left' (fieldBits_length b range), List.drop_left' (fieldBits_length b range), ih,
      zext8, ofNat_uint_fieldBits, List.map_cons]

/-- The count is the value of its field when it fits (43 R203, R205). -/
theorem uint_take_sequenceBits {scale : Nat} {d : List Byte} (h31 : scale ≤ 31)
    (hfit : d.length < 2 ^ scale) (range : Nat) :
    uint ((sequenceBits scale range d).take scale) = d.length := by
  have hle : 2 ^ scale ≤ 2 ^ 32 := Nat.pow_le_pow_right (by decide) (by omega)
  rw [sequenceBits, List.take_left' (fieldBits_length _ _), uint_fieldBits, BitVec.toNat_ofNat,
    Nat.mod_eq_of_lt (hfit.trans_le hle), Nat.mod_eq_of_lt hfit]

/-- The bits of a sequence are read as its count and its elements (43 R205, R212). -/
theorem sequenceOf_sequenceBits {scale : Nat} {d : List Byte} (h31 : scale ≤ 31)
    (hfit : d.length < 2 ^ scale) (range : Nat) :
    sequenceOf scale range (sequenceBits scale range d) =
      (BitVec.ofNat 64 d.length, d.map fun b => (b.extractLsb' 0 range).zeroExtend 8) := by
  rw [sequenceOf, uint_take_sequenceBits h31 hfit, sequenceBits,
    List.drop_left' (fieldBits_length _ _), elementsOf_flatMap]

/-- A reader that finds the bits of a sequence next finds its count, and so its length (43 R211). -/
theorem Unpacker.sequenceLength_of_stream {scale range : Nat} {d : List Byte} {q : Unpacker}
    (h31 : scale ≤ 31) (hfit : d.length < 2 ^ scale)
    (hq : q.stream.take (sequenceBits scale range d).length = sequenceBits scale range d) :
    q.sequenceLength scale range = (sequenceBits scale range d).length := by
  have hcount := uint_take_sequenceBits h31 hfit range
  have hle : scale ≤ (sequenceBits scale range d).length := by
    rw [sequenceBits_length]
    exact Nat.le_add_right _ _
  rw [← hq, List.take_take, Nat.min_eq_left hle] at hcount
  rw [Unpacker.sequenceLength, Unpacker.nextCount, hcount, sequenceBits_length]

/-- A `PACKER` command that was answered OK was legal (60_exceptions.md R257). -/
theorem legal_of_ok {i : Instr} {s t : State} {result : BitVec 64} {payload : List Byte}
    (he : i.engine = .packer) (h : exec i s = .next t)
    (ha : t.w.response = some ⟨.ok, result, payload⟩) : s.legal i = true := by
  obtain ⟨w, rfl, hw⟩ := exec_packer_ends he h
  exact (hw.ok ha).1

/-- Settles O53: the reader takes the bits of the sequence, which are those the writer emitted. -/
theorem byteSequenceRoundTrips : Obligations.ByteSequenceRoundTrips := by
  rintro scale range len s t a q d more hcut hlen hwrite hok ⟨pad, halign, hpad⟩ hd hq hr
  have hl : legalSequence scale range len = true :=
    legal_of_ok (i := .wbytes scale range len) rfl hwrite hok
  rw [legalSequence, Bool.and_eq_true, decide_eq_true_eq] at hl
  obtain ⟨hread, hfit⟩ := hl
  obtain ⟨-, h31, -⟩ := sequence_bounds hread
  have htake : (s.w.payload.take len).length = len := List.length_take_of_le hlen
  have hbits := stream_take_roundTrip (i := .wbytes scale range len)
    (bits := sequenceBits scale range (s.w.payload.take len)) rfl hcut rfl hwrite hok halign hpad hd hq
  have hseq := Unpacker.sequenceLength_of_stream h31 (htake.symm ▸ hfit) hbits
  obtain ⟨-, b, hb, -, hresponse, -⟩ := exec_unpacker_ready (i := .rbytes scale range)
    (s := { a with r := q }) rfl hread hseq hbits (by rwa [sequenceBits_length, htake])
  refine ⟨b, hb, ?_⟩
  rw [hresponse, readValue, sequenceOf_sequenceBits h31 (htake.symm ▸ hfit), htake]

end Sys2Proof.Machine
end


section
/-! PROOFS. The byte-sequence and string commands whose transfers are all answered complete
(43_variable_length_codec.md R204 to R210). -/

namespace Sys2Proof.Machine

/-! ## Legal pairs -/

/-- A legal scale and range, by their bounds (43 R201, R202). -/
theorem legalScale_and_legalRange_iff {scale range : Nat} :
    (legalScale scale && legalRange range) = true ↔
      1 ≤ scale ∧ scale ≤ 31 ∧ 1 ≤ range ∧ range ≤ 8 := by
  simp only [legalScale, legalRange, Bool.and_eq_true, decide_eq_true_eq, and_assoc]
  exact Iff.rfl

/-- A write asks of its pair what a read does, and that the count fits its field (43 R203). -/
theorem legalSequence_iff {scale range len : Nat} : legalSequence scale range len = true ↔
    (legalScale scale && legalRange range) = true ∧ len < 2 ^ scale := by
  rw [legalSequence, Bool.and_eq_true, decide_eq_true_eq]

/-- Both pairs of well-formed parameters are legal (43 R206). -/
theorem Params.wf_legal {c : Params} (h : c.wf = true) :
    (legalScale c.strScale && legalRange c.strRange) = true ∧
      (legalScale c.strScale && legalRange c.asciiRange) = true := by
  simp only [Params.wf, Bool.and_eq_true, decide_eq_true_eq] at h
  obtain ⟨⟨⟨⟨⟨hs1, hs31⟩, hr1⟩, hr8⟩, ha1⟩, ha8⟩ := h
  exact ⟨legalScale_and_legalRange_iff.mpr ⟨hs1, hs31, hr1, hr8⟩,
    legalScale_and_legalRange_iff.mpr ⟨hs1, hs31, ha1, ha8⟩⟩

/-! ## Strings written -/

/-- Settles O34: with a legal configured pair the commands are legal, and their bits are those of
the sequence. -/
theorem wstrAndWasciiWriteTheConfiguredSequence :
    Obligations.WstrAndWasciiWriteTheConfiguredSequence := by
  intro len s d hwf hfit hlen hd
  obtain ⟨hstr, hascii⟩ := Params.wf_legal hwf
  subst hd
  exact ⟨fun bits hbits hr => exec_packer_ready (i := .wstr len) rfl
      (legalSequence_iff.mpr ⟨hstr, hfit⟩) hlen hbits.symm hr,
    fun bits hbits hr => exec_packer_ready (i := .wascii len) rfl
      (legalSequence_iff.mpr ⟨hascii, hfit⟩) hlen hbits.symm hr⟩

/-! ## Sequences read -/

/-- The element of index `i` lies `i * range` bits behind the first (43 R205). -/
theorem elementsOf_eq_map (range n : Nat) (v : Bits) :
    elementsOf range n v = (List.range n).map fun i => zext8 ((v.drop (i * range)).take range) := by
  induction n generalizing v with
  | zero => rfl
  | succ n ih =>
    have hstep : ∀ i, range + i * range = (i + 1) * range := fun i => by ring
    simp [elementsOf, ih, List.range_succ_eq_map, List.drop_drop, hstep]

/-- Only the bits of the elements are read (43 R205). -/
theorem elementsOf_take (range n : Nat) (v : Bits) :
    elementsOf range n (v.take (n * range)) = elementsOf range n v := by
  induction n generalizing v with
  | zero => rfl
  | succ n ih =>
    have hlen : (n + 1) * range = range + n * range := by ring
    rw [elementsOf, elementsOf, hlen, List.take_take, Nat.min_eq_left (Nat.le_add_right _ _),
      List.drop_take, Nat.add_sub_cancel_left, ih]

/-- The bits that a byte-sequence read consumes hold the count and the elements that stand next in
the stream (43 R205, R211). -/
theorem Unpacker.sequenceOf_take_stream (scale range : Nat) (q : Unpacker) :
    sequenceOf scale range (q.stream.take (q.sequenceLength scale range)) =
      (BitVec.ofNat 64 (q.nextCount scale), q.nextElements scale range) := by
  have hle : scale ≤ q.sequenceLength scale range := Nat.le_add_right _ _
  have hcount : uint ((q.stream.take (q.sequenceLength scale range)).take scale) =
      q.nextCount scale := by
    rw [List.take_take, Nat.min_eq_left hle, Unpacker.nextCount]
  have hrest : (q.stream.take (q.sequenceLength scale range)).drop scale =
      (q.stream.drop scale).take (q.nextCount scale * range) := by
    rw [List.drop_take, Unpacker.sequenceLength, Nat.add_sub_cancel_left]
  rw [sequenceOf, hcount, hrest, elementsOf_take, elementsOf_eq_map]
  simp only [List.drop_drop, zext8, Unpacker.nextElements]

/-- A command that returns for its bits the sequence they hold answers with the one that stands
next in the stream (43 R205, R208, R210). -/
theorem exec_readSequence_ready {i : Instr} {s : State} {scale range : Nat}
    (he : i.engine = .unpacker) (hl : s.legal i = true)
    (hn : s.r.commandLength i = s.r.sequenceLength scale range)
    (hvalue : ∀ v, readValue i s.r.params v = sequenceOf scale range v)
    (hr : s.r.ready (s.r.gets (s.r.sequenceLength scale range)) = true) :
    ∃ t, exec i s = .next t ∧
      s.Read (s.r.sequenceLength scale range) (BitVec.ofNat 64 (s.r.nextCount scale))
        (s.r.nextElements scale range) t := by
  obtain ⟨-, t, ht, hread⟩ := exec_unpacker_ready he hl hn rfl hr
  rw [hvalue, Unpacker.sequenceOf_take_stream] at hread
  exact ⟨t, ht, hread⟩

/-- Settles O35: such an RBYTES is legal, and the bits it takes hold the count and the elements. -/
theorem rbytesReturnsCountAndElements : Obligations.RbytesReturnsCountAndElements := by
  intro scale range s hs1 hs31 hr1 hr8 hr
  exact exec_readSequence_ready (i := .rbytes scale range) rfl
    (legalScale_and_legalRange_iff.mpr ⟨hs1, hs31, hr1, hr8⟩) rfl (fun _ => rfl) hr

/-- Settles O36: with a legal configured pair the commands are legal, and read the sequence as
RBYTES does. -/
theorem rstrAndRasciiReadTheConfiguredSequence :
    Obligations.RstrAndRasciiReadTheConfiguredSequence := by
  rintro s _ hwf rfl
  obtain ⟨hstr, hascii⟩ := Params.wf_legal hwf
  constructor
  · rintro _ rfl hr
    exact exec_readSequence_ready (i := .rstr) rfl hstr rfl (fun _ => rfl) hr
  · rintro _ rfl hr
    exact exec_readSequence_ready (i := .rascii) rfl hascii rfl (fun _ => rfl) hr

end Sys2Proof.Machine
end


section
/-! PROOFS. A command is answered ERR_VALIDATION if and only if its operands are not legal
(44_width_validation.md R230, 60_exceptions.md R257). -/

namespace Sys2Proof.Machine

/-- Illegal operands are answered once the payload was taken (60_exceptions.md R257, 30_encoding.md
R103). -/
theorem exec_packer_illegal {i : Instr} {s : State} (he : i.engine = .packer)
    (hcut : s.w.cut = none) (hlen : i.payloadLength ≤ s.w.payload.length)
    (hl : s.legal i = false) :
    exec i s = .next { s with w := { s.w with
      payload := s.w.payload.drop i.payloadLength
      response := some (.error .errValidation) } } := by
  rw [exec_packer s he, hl, packerRun_enough hlen, packerWork_illegal, Packer.raise,
    Packer.respond_of_cut_none]
  exact hcut

/-- However a legal `PACKER` command ends, it does not fail validation. -/
theorem Packer.Ends.response_ne_errValidation {p w : Packer} {x : Run Packer (BitVec 64)}
    (h : p.Ends true x w) : w.response ≠ some (.error .errValidation) := by
  intro hw
  cases h with
  | invalid _ hl => cases hl
  | unusable => cases hw
  | done => cases hw
  | io => cases hw
  | reset => cases hw
  | ioReset => cases hw

/-- However a legal `UNPACKER` command ends, it does not fail validation. -/
theorem Unpacker.Ends.response_ne_errValidation {q r : Unpacker}
    {x : Run Unpacker (BitVec 64 × List Byte)} (h : q.Ends true x r) :
    r.response ≠ some (.error .errValidation) := by
  intro hr
  cases h with
  | invalid _ hl => cases hl
  | unusable => cases hr
  | done => cases hr
  | io => cases hr
  | reset => cases hr
  | ioReset => cases hr

/-- The status of a `PACKER` command shows whether its operands are legal. -/
theorem exec_packer_validates {i : Instr} {s : State} {legal : Prop} (he : i.engine = .packer)
    (hcut : s.w.cut = none) (hlen : i.payloadLength ≤ s.w.payload.length)
    (hl : s.legal i = true ↔ legal) : Validates (fun t => t.w.response) legal (exec i s) := by
  refine ⟨fun hbad => ?_, fun hok t h => ?_⟩
  · exact ⟨_, exec_packer_illegal he hcut hlen (Bool.eq_false_iff.mpr (hl.not.mpr hbad)), rfl⟩
  · obtain ⟨w, rfl, hw⟩ := exec_packer_ends he h
    rw [hl.mpr hok] at hw
    exact hw.response_ne_errValidation

/-- The status of an `UNPACKER` command shows whether its operands are legal. -/
theorem exec_unpacker_validates {i : Instr} {s : State} {legal : Prop} (he : i.engine = .unpacker)
    (hcut : s.r.cut = none) (hl : s.legal i = true ↔ legal) :
    Validates (fun t => t.r.response) legal (exec i s) := by
  refine ⟨fun hbad => ?_, fun hok t h => ?_⟩
  · exact ⟨_, exec_unpacker_illegal he hcut (Bool.eq_false_iff.mpr (hl.not.mpr hbad)), rfl⟩
  · obtain ⟨r, rfl, hr⟩ := exec_unpacker_ends he h
    rw [hl.mpr hok] at hr
    exact hr.response_ne_errValidation

/-- Settles O41: the bounds are those of a legal WBYTES and of a legal RBYTES. -/
theorem sequenceOperandsAreBounded : Obligations.SequenceOperandsAreBounded := by
  intro scale range len s
  have hread := legalScale_and_legalRange_iff (scale := scale) (range := range)
  have hwrite := legalSequence_iff (scale := scale) (range := range) (len := len)
  rw [hread] at hwrite
  simp only [and_assoc] at hwrite
  exact ⟨fun hcut hlen =>
      exec_packer_validates (i := .wbytes scale range len) rfl hcut hlen hwrite,
    fun hcut => exec_unpacker_validates (i := .rbytes scale range) rfl hcut hread⟩

end Sys2Proof.Machine
end


section
/-! PROOFS. The legal operands are those of the tables, and an illegal one changes nothing
(44_width_validation.md R230, R233 to R235, 60_exceptions.md R257). -/

namespace Sys2Proof.Machine

/-! ## Legal operands, by their bounds -/

/-- An unsigned field leaves one bit of its native width free (44 R231). -/
theorem legalSize_unsigned_iff {n : Native} {size : Nat} :
    legalSize n .unsigned size = true ↔ 1 ≤ size ∧ size ≤ n.width - 1 := by
  rw [legalSize, Bool.and_eq_true, decide_eq_true_eq, decide_eq_true_eq]

/-- A signed field has room for a sign and a magnitude, up to its native width (44 R232). -/
theorem legalSize_signed_iff {n : Native} {size : Nat} :
    legalSize n .signed size = true ↔ 2 ≤ size ∧ size ≤ n.width := by
  rw [legalSize, Bool.and_eq_true, decide_eq_true_eq, decide_eq_true_eq]

theorem legalChar_iff {size : Nat} : legalChar size = true ↔ 1 ≤ size ∧ size ≤ 16 := by
  rw [legalChar, Bool.and_eq_true, decide_eq_true_eq, decide_eq_true_eq, Config.charMax]

theorem legalBoundary_iff {boundary : Int} : legalBoundary boundary = true ↔ 1 ≤ boundary :=
  decide_eq_true_iff

theorem State.legal_write (n : Native) (u : Signedness) (size : Nat) (value : BitVec 64) (s : State) :
    s.legal (n.write u size value) = legalSize n u size := by
  cases n <;> rfl

theorem payloadLength_write (n : Native) (u : Signedness) (size : Nat) (value : BitVec 64) :
    (n.write u size value).payloadLength = 0 := by
  cases n <;> rfl

/-! ## Commands -/

/-- Settles O37: both engines validate before the state check and before any transfer. -/
theorem validationErrorChangesNothing : Obligations.ValidationErrorChangesNothing :=
  fun _ _ hl => ⟨fun he hcut hlen => exec_packer_illegal he hcut hlen hl,
    fun he hcut => exec_unpacker_illegal he hcut hl⟩

/-- Settles O38: each row of the table is the interval of its width and signedness. -/
theorem numericSizesAreBoundedByTheTable : Obligations.NumericSizesAreBoundedByTheTable := by
  intro n u size lo hi value s htable
  have hsize : legalSize n u size = true ↔ lo ≤ size ∧ size ≤ hi := by
    cases u with
    | unsigned => rw [legalSize_unsigned_iff]; cases n <;> cases htable <;> exact Iff.rfl
    | signed => rw [legalSize_signed_iff]; cases n <;> cases htable <;> exact Iff.rfl
  have hlen : (n.write u size value).payloadLength ≤ s.w.payload.length :=
    (payloadLength_write n u size value).trans_le (Nat.zero_le _)
  exact ⟨fun hcut => exec_packer_validates (engine_write n u size value) hcut hlen
      (by rwa [State.legal_write]),
    fun hcut => exec_unpacker_validates (engine_read n u size) hcut (by rwa [State.legal_read])⟩

/-- Settles O39: a char field is legal by the same bounds, written or read. -/
theorem charSizesAreBounded : Obligations.CharSizesAreBounded :=
  fun size value _ => ⟨fun hcut =>
      exec_packer_validates (i := .wchar size value) rfl hcut (Nat.zero_le _) legalChar_iff,
    fun hcut => exec_unpacker_validates (i := .rchar size) rfl hcut legalChar_iff⟩

/-- Settles O40: a boundary is legal by the same bound, written or read. -/
theorem boundariesArePositive : Obligations.BoundariesArePositive :=
  fun boundary _ => ⟨fun hcut =>
      exec_packer_validates (i := .walign boundary) rfl hcut (Nat.zero_le _) legalBoundary_iff,
    fun hcut => exec_unpacker_validates (i := .ralign boundary) rfl hcut legalBoundary_iff⟩

end Sys2Proof.Machine
end


section
/-! PROOFS. The two errors of a legal command: ERR_STATE before any transfer, ERR_IO at the transfer that
the environment refuses (60_exceptions.md R252, R253, R258, R260 to R262). -/

namespace Sys2Proof.Machine

/-! ## ERR_STATE -/

theorem Packer.usable_eq_false_iff {p : Packer} :
    p.usable = false ↔ p.bound = false ∨ p.faulted = true := by
  rw [Packer.usable, Bool.and_eq_false_iff, Bool.not_eq_false']

theorem Unpacker.usable_eq_false_iff {q : Unpacker} :
    q.usable = false ↔ q.bound = false ∨ q.faulted = true := by
  rw [Unpacker.usable, Bool.and_eq_false_iff, Bool.not_eq_false']

/-- An unbound or faulted engine answers once the payload was taken (60_exceptions.md R258, 30_encoding.md
R103). -/
theorem exec_packer_unusable {i : Instr} {s : State} (he : i.engine = .packer)
    (hcut : s.w.cut = none) (hlen : i.payloadLength ≤ s.w.payload.length)
    (hl : s.legal i = true) (hu : s.w.usable = false) :
    exec i s = .next { s with w := { s.w with
      payload := s.w.payload.drop i.payloadLength
      response := some (.error .errState) } } := by
  rw [exec_packer s he, hl, packerRun_enough hlen, packerWork_unusable, Packer.raise,
    Packer.respond_of_cut_none]
  · exact hcut
  · exact hu

/-- Settles O42: both engines check their state before any transfer. -/
theorem stateErrorChangesNothing : Obligations.StateErrorChangesNothing :=
  fun _ _ hl =>
    ⟨fun he hu hcut hlen =>
      exec_packer_unusable he hcut hlen hl (Packer.usable_eq_false_iff.mpr hu),
    fun he hu hcut => exec_unpacker_unusable he hcut hl (Unpacker.usable_eq_false_iff.mpr hu)⟩

/-! ## ERR_IO of a write -/

theorem bytesOf_length (k : Nat) (v : Bits) : (bytesOf k v).length = k := by
  induction k generalizing v with
  | zero => rfl
  | succ k ih => rw [bytesOf, List.length_cons, ih]

/-- The bytes that the first bits of a command complete are its first bytes (41 R136). -/
theorem Packer.newBytes_append_take (v w : Bits) (p : Packer) :
    (p.newBytes (v ++ w)).take (p.puts v.length) = p.newBytes v := by
  obtain ⟨j, hj⟩ : ∃ j, p.puts (v ++ w).length = p.puts v.length + j :=
    Nat.exists_eq_add_of_le (Nat.div_le_div_right (by simp))
  have hle : 8 * p.puts v.length ≤ (p.pending ++ v).length := by
    simp [Packer.puts]; omega
  rw [Packer.newBytes, hj, bytesOf_add, List.take_left' (bytesOf_length _ _), ← List.append_assoc,
    bytesOf_append hle, Packer.newBytes]

/-- A refused offer ends the emission; the bytes accepted before it stay in `SINK` and are counted
(20_memory.md R52, 60_exceptions.md R260). -/
theorem emitAll_refused {v : Bits} {p : Packer} {k : Nat} (hk : k < p.puts v.length)
    (hc : p.cut = none) (ho : p.answers.okFor k = true)
    (hfail : (p.answers.advance k).next.1 = .fail) (hr : p.count + k < 2 ^ p.params.cntW) :
    ∃ t, emitAll v p = .halted .io t ∧ t.sink = p.sink ++ (p.newBytes v).take k ∧
      t.count = p.count + k := by
  obtain ⟨v₁, b, v₂, p', rfl, rfl, he, hw, h7⟩ := emitAll_reaches hk hc ho hr
  obtain ⟨-, hcount, hsink, -, hanswers, -, -, hcut, -, -⟩ := hw
  obtain ⟨h, -⟩ | ⟨-, e⟩ := wPlace_one b p'
  · omega
  · have hput := Packer.sinkPut_refused (byteOf (p'.pending ++ [b]))
      (p := { p' with partialByte := byteOf (p'.pending ++ [b]), cursor := 0#3 }) (hcut.trans hc)
      (Prod.ext (hanswers ▸ hfail) rfl)
    rw [emitAll_append, he, Run.bind_done, emitAll, e, hput, Packer.newBytes_append_take]
    exact ⟨_, rfl, hsink, hcount⟩

/-- A command whose pseudocode raises ERR_IO is answered so and latches the engine (60_exceptions.md R260,
R262). -/
theorem exec_packer_io {i : Instr} {s : State} {p : Packer} (he : i.engine = .packer)
    (hl : s.legal i = true) (hu : s.w.usable = true) (hcut : s.w.cut = none)
    (hlen : i.payloadLength ≤ s.w.payload.length)
    (hx : packerBody i s.w.params (s.w.payload.take i.payloadLength)
      (s.w.dropPayload i.payloadLength) = .halted .io p) :
    (s.w.dropPayload i.payloadLength).Sends p ∧
      exec i s = .next { s with w := { p.latch with response := some (.error .errIo) } } := by
  have hs := packerBody_sends i s.w.params (s.w.payload.take i.payloadLength)
    (s.w.dropPayload i.payloadLength)
  rw [hx] at hs
  refine ⟨hs, ?_⟩
  rw [exec_packer_usable he hl hu hlen, hx, finishPacker, Packer.raise,
    p.latch.respond_of_cut_none (hs.cut_none.mpr hcut)]

/-- Settles O43: the body makes the transfers of the emission of its bits, which halts at the refused
offer. -/
theorem refusedByteLatchesThePacker : Obligations.RefusedByteLatchesThePacker := by
  intro i s bits k he hl hu hcut hlen hbits hk ho hfail hr
  obtain ⟨t, hemit, hsink, hcount⟩ :=
    emitAll_refused (p := s.w.dropPayload i.payloadLength) hk hcut ho hfail hr
  have hemits := packerBody_emits he hl (s.w.payload.take i.payloadLength)
    (p := s.w.dropPayload i.payloadLength) rfl
  rw [Packer.commandBits_dropPayload, ← hbits] at hemits
  obtain ⟨p, hx⟩ := hemits.halted hemit
  obtain ⟨t', hemit', hpt⟩ := hemits.of_halted hx
  obtain ⟨-, rfl⟩ := Run.halted.inj (hemit.symm.trans hemit')
  obtain ⟨hs, hexec⟩ := exec_packer_io he hl hu hcut hlen hx
  exact ⟨_, hexec, rfl, rfl, (congrArg Packer.sink hpt).trans hsink,
    (congrArg Packer.count hpt).trans hcount, hs.payload, hs.bound, hs.params, rfl, rfl⟩

/-! ## ERR_IO of a read -/

/-- A request that fails, or finds `SRC` empty, ends the reading; the bytes delivered before it are gone and
counted (20_memory.md R55, 60_exceptions.md R260). -/
theorem takeAll_refused {n k : Nat} {q : Unpacker} (hk : k < q.gets n) (hc : q.cut = none)
    (hs : k ≤ q.source.length) (ho : q.answers.okFor k = true)
    (hfail : (q.answers.advance k).next.1 = .fail ∨
      (q.answers.advance k).next.1 = .ok ∧ k = q.source.length)
    (hr : q.count + k < 2 ^ q.params.cntW) :
    ∃ t, takeAll n q = .halted .io t ∧ t.source = q.source.drop k ∧ t.count = q.count + k := by
  obtain ⟨m, v, q', hmn, rfl, e, h, h0⟩ := takeAll_reaches hk hc hs ho hr
  obtain ⟨-, hcount, hsource, -, -, hanswers, -, -, hcut, -, -⟩ := h
  rw [← hanswers] at hfail
  have hget : q'.srcGet = .halted .io { q' with answers := q'.answers.next.2 } :=
    Unpacker.srcGet_refused (hcut.trans hc) (hfail.imp (Prod.ext · rfl) fun ⟨hok, hend⟩ =>
      ⟨Prod.ext hok rfl, hsource.trans (List.drop_of_length_le hend.ge)⟩)
  obtain ⟨l, rfl⟩ := Nat.exists_eq_add_of_lt hmn
  rw [Nat.add_assoc, takeAll_add, e, Run.bind_done, takeAll, rTake, if_pos h0, hget]
  exact ⟨_, rfl, hsource, hcount⟩

/-- A command whose pseudocode raises ERR_IO is answered so and latches the engine (60_exceptions.md R260,
R262). -/
theorem exec_unpacker_io {i : Instr} {s : State} {q : Unpacker} (he : i.engine = .unpacker)
    (hl : s.legal i = true) (hu : s.r.usable = true) (hcut : s.r.cut = none)
    (hx : unpackerBody i s.r.params s.r = .halted .io q) :
    s.r.Pulls q ∧
      exec i s = .next { s with r := { q.latch with response := some (.error .errIo) } } := by
  have hs : s.r.Pulls q := by simpa [hx] using unpackerBody_pulls i s.r.params s.r
  refine ⟨hs, ?_⟩
  rw [exec_unpacker_usable he hl hu, hx, finishUnpacker, Unpacker.raise,
    q.latch.respond_of_cut_none (hs.cut_none.mpr hcut)]

/-- Settles O44: the body takes its bits one by one, which halts at the request that fails. -/
theorem failedPullLatchesTheUnpacker : Obligations.FailedPullLatchesTheUnpacker := by
  intro i s k he hl hu hcut hk hsrc ho hfail hr
  obtain ⟨q, htake, hsource, hcount⟩ := takeAll_refused hk hcut hsrc ho hfail hr
  have hx := unpackerBody_eq_takeAll he hl
  rw [htake, Run.bind_halted] at hx
  obtain ⟨hs, hexec⟩ := exec_unpacker_io he hl hu hcut hx
  exact ⟨_, hexec, rfl, rfl, hsource, hcount, hs.bound, hs.params, rfl, rfl⟩

end Sys2Proof.Machine
end


section
/-! PROOFS. The transfer at which a run halts: the environment never answers it, or the host asserts `rst`
before it (70_reset_and_hazards.md R292, R306). -/

namespace Sys2Proof.Machine

/-! ## The halting transfer -/

/-- An offer that is never answered hangs the procedure (70 R306). -/
theorem Packer.sinkPut_silent {p : Packer} (b : Byte) (hc : p.cut = none)
    (ha : p.answers.next.1 = .never) : p.sinkPut b = .halted .silent p := by
  obtain ⟨h, -⟩ | ⟨-, o, ⟨-, e⟩ | ⟨h, -⟩ | ⟨h, -⟩ | ⟨h, -⟩⟩ := p.sinkPut_cases b
  · rw [hc] at h; cases h
  · exact e
  all_goals
    rw [h] at ha
    cases ha

/-- A request that is never answered hangs the procedure, whatever `SRC` holds (70 R306, log 19). -/
theorem Unpacker.srcGet_silent {q : Unpacker} (hc : q.cut = none) (ha : q.answers.next.1 = .never) :
    q.srcGet = .halted .silent q := by
  obtain ⟨h, -⟩ | ⟨-, o, ⟨-, e⟩ | ⟨h | ⟨h, -⟩, -⟩ | ⟨_, _, h, -⟩⟩ := q.srcGet_cases
  · rw [hc] at h; cases h
  · exact e
  all_goals
    rw [h] at ha
    cases ha

/-- An emission halts at the bit that completes a byte, if the offer of that byte halts. -/
theorem emitAll_halts {v₁ v₂ : Bits} {b : Bool} {p p' : Packer} {h : Halt}
    (he : emitAll v₁ p = .done () p') (h7 : p'.cursor.toNat = 7)
    (hput : ∀ x : Byte, ({ p' with partialByte := x, cursor := 0#3 } : Packer).sinkPut x =
      .halted h { p' with partialByte := x, cursor := 0#3 }) :
    ∃ x, emitAll (v₁ ++ b :: v₂) p = .halted h { p' with partialByte := x, cursor := 0#3 } := by
  obtain ⟨hlt, -⟩ | ⟨-, e⟩ := wPlace_one b p'
  · omega
  · rw [emitAll_append, he, Run.bind_done, emitAll, e, hput]
    exact ⟨_, rfl⟩

/-- A reading halts at cursor 0, if the request of the next byte halts. -/
theorem takeAll_halts {m n : Nat} {q q' t : Unpacker} {v : Bits} {h : Halt} (hmn : m < n)
    (he : takeAll m q = .done v q') (h0 : q'.cursor = 0#3) (hget : q'.srcGet = .halted h t) :
    takeAll n q = .halted h t := by
  obtain ⟨l, rfl⟩ := Nat.exists_eq_add_of_lt hmn
  rw [Nat.add_assoc, takeAll_add, he, Run.bind_done, takeAll, rTake, if_pos h0, hget]
  rfl

/-! ## An environment that never answers -/

theorem emitAll_silent {v : Bits} {p : Packer} {k : Nat} (hk : k < p.puts v.length)
    (hc : p.cut = none) (ho : p.answers.okFor k = true)
    (hnever : (p.answers.advance k).next.1 = .never) (hr : p.count + k < 2 ^ p.params.cntW) :
    ∃ t, emitAll v p = .halted .silent t := by
  obtain ⟨v₁, b, v₂, p', rfl, rfl, he, hw, h7⟩ := emitAll_reaches hk hc ho hr
  obtain ⟨-, -, -, -, hanswers, -, -, hcut, -, -⟩ := hw
  obtain ⟨x, hx⟩ := emitAll_halts (b := b) (v₂ := v₂) he h7 fun x =>
    Packer.sinkPut_silent x (hcut.trans hc) (hanswers ▸ hnever)
  exact ⟨_, hx⟩

theorem takeAll_silent {n k : Nat} {q : Unpacker} (hk : k < q.gets n) (hc : q.cut = none)
    (hs : k ≤ q.source.length) (ho : q.answers.okFor k = true)
    (hnever : (q.answers.advance k).next.1 = .never) (hr : q.count + k < 2 ^ q.params.cntW) :
    ∃ t, takeAll n q = .halted .silent t := by
  obtain ⟨m, v, q', hmn, rfl, he, h, h0⟩ := takeAll_reaches hk hc hs ho hr
  obtain ⟨-, -, -, -, -, hanswers, -, -, hcut, -, -⟩ := h
  exact ⟨_, takeAll_halts hmn he h0
    (Unpacker.srcGet_silent (hcut.trans hc) (hanswers ▸ hnever))⟩

/-- The body of a legal command emits its bits, its payload taken off the port (41 R128, R136). -/
theorem packerBody_emits_commandBits {i : Instr} {s : State} (he : i.engine = .packer)
    (hl : s.legal i = true) :
    Emits (s.w.commandBits i (s.w.payload.take i.payloadLength))
      (writeValue i (s.w.commandBits i (s.w.payload.take i.payloadLength)).length)
      (s.w.dropPayload i.payloadLength)
      (packerBody i s.w.params (s.w.payload.take i.payloadLength)
        (s.w.dropPayload i.payloadLength)) := by
  have h := packerBody_emits he hl (s.w.payload.take i.payloadLength)
    (p := s.w.dropPayload i.payloadLength) rfl
  rwa [Packer.commandBits_dropPayload] at h

/-- Settles O48: the body makes the transfers of its bits, and the one that is never answered hangs it. -/
theorem silentEnvironmentHangsTheCommand : Obligations.SilentEnvironmentHangsTheCommand := by
  intro i s k hl
  refine ⟨fun bits he hu hc hlen hbits hk ho hnever hr => ?_, fun he hu hc hk hs ho hnever hr => ?_⟩
  · subst hbits
    obtain ⟨t, ht⟩ :=
      emitAll_silent (p := s.w.dropPayload i.payloadLength) hk hc ho hnever hr
    obtain ⟨t', hx⟩ := (packerBody_emits_commandBits he hl).halted ht
    rw [exec_packer_usable he hl hu hlen, hx]
    rfl
  · obtain ⟨t, ht⟩ := takeAll_silent hk hc hs ho hnever hr
    rw [exec_unpacker_usable he hl hu, unpackerBody_eq_takeAll he hl, ht]
    rfl

end Sys2Proof.Machine
end


section
/-! PROOFS. Runs during which the host will assert `rst` (70_reset_and_hazards.md R292): up to that
transfer they are the runs without it, and what they leave is seen through the reset alone. -/

namespace Sys2Proof.Machine

/-! ## Transfers before `rst`, and the one it cuts off -/

theorem Packer.sinkPut_rst {p : Packer} (b : Byte) (hc : p.cut = some 0) :
    p.sinkPut b = .halted .rst p := by
  rw [Packer.sinkPut, if_pos hc]

theorem Unpacker.srcGet_rst {q : Unpacker} (hc : q.cut = some 0) : q.srcGet = .halted .rst q := by
  rw [Unpacker.srcGet, if_pos hc]

theorem Packer.sinkPut_withCut {b : Byte} {p p' : Packer} (m : Nat)
    (h : p.sinkPut b = .done () p') :
    ({ p with cut := some (m + 1) } : Packer).sinkPut b = .done () { p' with cut := some m } := by
  obtain ⟨-, e⟩ | ⟨-, o, ⟨-, e⟩ | ⟨-, e⟩ | ⟨ho, hr, e⟩ | ⟨-, -, e⟩⟩ := p.sinkPut_cases b <;>
    rw [e] at h <;> cases h
  simp [Packer.sinkPut, Packer.accept, ho, hr]

theorem Unpacker.srcGet_withCut {b : Byte} {q q' : Unpacker} (m : Nat)
    (h : q.srcGet = .done b q') :
    ({ q with cut := some (m + 1) } : Unpacker).srcGet = .done b { q' with cut := some m } := by
  obtain ⟨-, e⟩ | ⟨-, o, ⟨-, e⟩ | ⟨-, e⟩ | ⟨_, rest, ho, hs, ⟨hr, e⟩ | ⟨-, e⟩⟩⟩ :=
    q.srcGet_cases <;> rw [e] at h <;> cases h
  simp [Unpacker.srcGet, Unpacker.deliver, ho, hs, hr]

theorem wPlace_one_withCut {b : Bool} {p p' : Packer} {m : Nat}
    (h : wPlace [b] p = .done () p') (hm : p.puts 1 ≤ m) :
    wPlace [b] { p with cut := some m } = .done () { p' with cut := some (m - p.puts 1) } := by
  obtain ⟨hlt, e⟩ | ⟨h7, e⟩ := wPlace_one b p <;>
    obtain ⟨hlt', e'⟩ | ⟨h7', e'⟩ := wPlace_one b { p with cut := some m }
  · have hz : p.puts 1 = 0 := Nat.div_eq_of_lt (by omega)
    rw [e] at h
    cases h
    rw [e', hz]
    rfl
  · exact absurd h7' hlt.ne
  · exact absurd h7 hlt'.ne
  · have hz : p.puts 1 = 1 := by simp [Packer.puts, h7]
    obtain ⟨l, rfl⟩ := Nat.exists_eq_add_of_le' (hz ▸ hm)
    rw [e', hz]
    rw [e] at h
    exact Packer.sinkPut_withCut l h

/-- An emission that returns does so as well when `rst` would come behind its last transfer. -/
theorem emitAll_withCut {v : Bits} {p p' : Packer} {m : Nat}
    (h : emitAll v p = .done () p') (hm : p.puts v.length ≤ m) :
    emitAll v { p with cut := some m } =
      .done () { p' with cut := some (m - p.puts v.length) } := by
  induction v generalizing p m with
  | nil =>
    have hz : p.puts 0 = 0 := Nat.div_eq_of_lt p.cursor.isLt
    cases h
    rw [List.length_nil, hz]
    rfl
  | cons b v ih =>
    obtain ⟨_, p₁, hb, hv⟩ := Run.bind_eq_done h
    have hcur : p₁.cursor.toNat = (p.cursor.toNat + 1) % 8 := (wPlace_one_written hb).1
    rw [List.length_cons, Nat.add_comm, Packer.puts_add 1 _ hcur] at hm ⊢
    rw [emitAll, wPlace_one_withCut hb (by omega), Run.bind_done, ih hv (by omega), Nat.sub_sub]

theorem rTake_one_withCut {v : Bits} {q q' : Unpacker} {m : Nat}
    (h : rTake 1 q = .done v q') (hm : q.gets 1 ≤ m) :
    rTake 1 { q with cut := some m } = .done v { q' with cut := some (m - q.gets 1) } := by
  by_cases h0 : q.cursor = 0#3
  · have hz : q.gets 1 = 1 := by simp [Unpacker.gets, h0]
    obtain ⟨l, rfl⟩ := Nat.exists_eq_add_of_le' (hz ▸ hm)
    rw [rTake, if_pos h0] at h
    obtain ⟨b, q₁, hg, hd⟩ := Run.bind_eq_done h
    cases hd
    rw [rTake, if_pos h0, Unpacker.srcGet_withCut l hg, hz]
    rfl
  · have hz : q.gets 1 = 0 := by
      have hlt := q.cursor.isLt
      rw [Unpacker.gets, if_pos (cursor_pos.mpr h0)]
      omega
    rw [rTake, if_neg h0] at h
    cases h
    rw [rTake, if_neg h0, hz]
    rfl

/-- A reading that returns does so as well when `rst` would come behind its last transfer. -/
theorem takeAll_withCut {n : Nat} {v : Bits} {q q' : Unpacker} {m : Nat}
    (h : takeAll n q = .done v q') (hm : q.gets n ≤ m) :
    takeAll n { q with cut := some m } = .done v { q' with cut := some (m - q.gets n) } := by
  induction n generalizing q v m with
  | zero =>
    obtain ⟨-, hk, -⟩ := Unpacker.Consumed.refl q
    have hz : q.gets 0 = 0 := by omega
    cases h
    rw [hz]
    rfl
  | succ n ih =>
    obtain ⟨b, q₁, hb, h⟩ := Run.bind_eq_done h
    obtain ⟨w, q₂, hw, h⟩ := Run.bind_eq_done h
    cases h
    have hcur : q₁.cursor.toNat = (q.cursor.toNat + 1) % 8 := (rTake_one_consumed hb).1
    rw [Nat.add_comm n, Unpacker.gets_add 1 _ hcur] at hm ⊢
    rw [Nat.add_comm 1, takeAll, rTake_one_withCut hb (by omega), Run.bind_done, ih hw (by omega),
      Run.bind_done, Nat.sub_sub]

/-! ## What an abandoned run leaves -/

/-- The run meets neither a failed transfer nor a silent environment nor a full counter: it returns, or
`rst` ends it. -/
def Run.Abandonable {σ α : Type} : Run σ α → Prop
  | .done _ _ => True
  | .halted h _ => h = .rst

/-- Reset shows of a written engine its transfers alone (70 R291, R292). -/
theorem Packer.Written.reset_eq {v : Bits} {p p' : Packer} (h : p.Written v p')
    (hpay : p'.payload = p.payload) :
    p'.reset = ({ p with
      sink := p.sink ++ p.newBytes v
      answers := p.answers.advance (p.puts v.length) } : Packer).reset := by
  obtain ⟨-, -, hsink, -, hanswers, -, hbound, -, hdraws, hparams⟩ := h
  simp only [Packer.reset, hsink, hanswers, hbound, hdraws, hparams, hpay, Packer.newBytes]

/-- Reset shows of an engine that consumed bits its transfers alone (70 R291, R292). -/
theorem Unpacker.Consumed.reset_eq {n : Nat} {q q' : Unpacker} (h : q.Consumed n q') :
    q'.reset = ({ q with
      source := q.source.drop (q.gets n)
      answers := q.answers.advance (q.gets n) } : Unpacker).reset := by
  obtain ⟨-, -, hsource, -, -, hanswers, -, hbound, -, hdraws, hparams⟩ := h
  simp only [Unpacker.reset, hsource, hanswers, hbound, hdraws, hparams]

theorem emitAll_sends (v : Bits) (p : Packer) : p.Sends (emitAll v p).final := by
  induction v generalizing p with
  | nil => exact .refl p
  | cons b v ih => exact Run.bind_sends (wPlace_sends [b] p) fun _ t => ih t

/-- With `rst` to come after `m` transfers, an emission makes these, or all it has to, and no more is seen of
it (70 R292). -/
theorem emitAll_abandoned {v : Bits} {p : Packer} {m k : Nat} (hc : p.cut = some m)
    (hk : k = min m (p.puts v.length)) (ho : p.answers.okFor k = true)
    (hr : p.count + k < 2 ^ p.params.cntW) :
    (emitAll v p).Abandonable ∧ (emitAll v p).final.reset = ({ p with
      sink := p.sink ++ (p.newBytes v).take k, answers := p.answers.advance k } : Packer).reset := by
  obtain ⟨p₀, rfl, h₀⟩ : ∃ p₀ : Packer, p = { p₀ with cut := some m } ∧ p₀.cut = none :=
    ⟨{ p with cut := none }, by rw [← hc], rfl⟩
  rcases Nat.lt_or_ge m (p₀.puts v.length) with hlt | hle
  · obtain rfl : k = m := hk.trans (Nat.min_eq_left hlt.le)
    obtain ⟨v₁, b, v₂, p', rfl, rfl, he, hw, h7⟩ := emitAll_reaches (p := p₀) hlt h₀ ho hr
    have hcut := emitAll_withCut he le_rfl
    obtain ⟨x, hx⟩ := emitAll_halts (b := b) (v₂ := v₂) hcut h7 fun x =>
      Packer.sinkPut_rst x (by simp)
    have hs := emitAll_sends v₁ p₀
    rw [he] at hs
    rw [hx]
    refine ⟨rfl, (hw.reset_eq hs.payload).trans ?_⟩
    rw [← Packer.newBytes_append_take v₁ (b :: v₂)]
    rfl
  · obtain rfl : k = p₀.puts v.length := hk.trans (Nat.min_eq_right hle)
    obtain ⟨p', he, hw⟩ := emitAll_ready (p := p₀) h₀ ho hr
    have hs := emitAll_sends v p₀
    rw [he] at hs
    rw [emitAll_withCut he hle]
    refine ⟨trivial, (hw.reset_eq hs.payload).trans ?_⟩
    rw [← List.take_of_length_le (bytesOf_length _ _).le (l := p₀.newBytes v)]
    rfl

/-- With `rst` to come after `m` transfers, a reading makes these, or all it has to, and no more is seen of
it (70 R292). -/
theorem takeAll_abandoned {n : Nat} {q : Unpacker} {m k : Nat} (hc : q.cut = some m)
    (hk : k = min m (q.gets n)) (hs : k ≤ q.source.length) (ho : q.answers.okFor k = true)
    (hr : q.count + k < 2 ^ q.params.cntW) :
    (takeAll n q).Abandonable ∧ (takeAll n q).final.reset = ({ q with
      source := q.source.drop k, answers := q.answers.advance k } : Unpacker).reset := by
  obtain ⟨q₀, rfl, h₀⟩ : ∃ q₀ : Unpacker, q = { q₀ with cut := some m } ∧ q₀.cut = none :=
    ⟨{ q with cut := none }, by rw [← hc], rfl⟩
  rcases Nat.lt_or_ge m (q₀.gets n) with hlt | hle
  · obtain rfl : k = m := hk.trans (Nat.min_eq_left hlt.le)
    obtain ⟨l, v, q', hln, rfl, he, h, h0⟩ := takeAll_reaches (q := q₀) hlt h₀ hs ho hr
    rw [takeAll_halts hln (takeAll_withCut he le_rfl) h0 (Unpacker.srcGet_rst (by simp))]
    exact ⟨rfl, h.reset_eq⟩
  · obtain rfl : k = q₀.gets n := hk.trans (Nat.min_eq_right hle)
    obtain ⟨v, q', he, h⟩ := takeAll_ready (q := q₀) h₀ hs ho hr
    rw [takeAll_withCut he hle]
    exact ⟨trivial, h.reset_eq⟩

/-! ## Commands -/

/-- Another run of the same emission leaves the same engine, but for `partial` and `cursor`. -/
theorem Emits.final_eq {α : Type} {v : Bits} {a : α} {p : Packer} {x : Run Packer α}
    (h : Emits v a p x) : ({ x.final with partialByte := 0#8, cursor := 0#3 } : Packer) =
      { (emitAll v p).final with partialByte := 0#8, cursor := 0#3 } := by
  cases x with
  | done a' t =>
    obtain ⟨-, t', he, ht⟩ := h.of_done rfl
    rw [he, Run.final_done, Run.final_done]
    exact congrArg (fun p : Packer => { p with cursor := 0#3 }) ht.2
  | halted k t =>
    obtain ⟨t', he, ht⟩ := h.of_halted rfl
    rw [he]
    exact ht

theorem Emits.reset_eq {α : Type} {v : Bits} {a : α} {p : Packer} {x : Run Packer α}
    (h : Emits v a p x) : x.final.reset = (emitAll v p).final.reset :=
  (congrArg Packer.reset h.final_eq :)

theorem Emits.abandonable {α : Type} {v : Bits} {a : α} {p : Packer} {x : Run Packer α}
    (h : Emits v a p x) (hv : (emitAll v p).Abandonable) : x.Abandonable := by
  cases x with
  | done a' t => trivial
  | halted k t =>
    obtain ⟨t', he, -⟩ := h.of_halted rfl
    rwa [he] at hv

/-- A run that `rst` ends, before its end or before the response, leaves the engine reset (70 R292). -/
theorem finishPacker_abandoned {x : Run Packer (BitVec 64)} {s : State} (hx : x.Abandonable)
    (hc : x.final.cut ≠ none) : finishPacker x s = .next { s with w := x.final.reset } := by
  cases x with
  | done v p =>
    obtain ⟨k, hk⟩ := Option.ne_none_iff_exists'.mp hc
    rw [finishPacker, p.respond_of_cut_some hk]
    rfl
  | halted h p =>
    obtain rfl : h = .rst := hx
    rfl

/-- A run that `rst` ends, before its end or before the response, leaves the engine reset (70 R292). -/
theorem finishUnpacker_abandoned {x : Run Unpacker (BitVec 64 × List Byte)} {s : State}
    (hx : x.Abandonable) (hc : x.final.cut ≠ none) :
    finishUnpacker x s = .next { s with r := x.final.reset } := by
  cases x with
  | done v q =>
    obtain ⟨k, hk⟩ := Option.ne_none_iff_exists'.mp hc
    rw [finishUnpacker, q.respond_of_cut_some hk]
    rfl
  | halted h q =>
    obtain rfl : h = .rst := hx
    rfl

/-- A value computed from what a run returns does not change how it ends. -/
theorem Run.abandonable_returns {σ α β : Type} (x : Run σ α) (g : α → β) :
    (x.bind fun a s => .done (g a) s).Abandonable ↔ x.Abandonable := by
  cases x <;> rfl

/-- A value computed from what a run returns does not change what it leaves. -/
theorem Run.final_returns {σ α β : Type} (x : Run σ α) (g : α → β) :
    (x.bind fun a s => .done (g a) s).final = x.final := by
  cases x <;> rfl

/-- Settles O13: the body makes the transfers of its bits up to `rst`, and the reset leaves these alone. -/
theorem resetDuringACommandAbandonsIt : Obligations.ResetDuringACommandAbandonsIt := by
  intro i s m hl
  refine ⟨fun bits k he hc hu hlen hbits hk ho hr => ?_, fun k he hc hu hk hs ho hr => ?_⟩
  · subst hbits
    have hemits := packerBody_emits_commandBits he hl
    have hsends := packerBody_sends i s.w.params (s.w.payload.take i.payloadLength)
      (s.w.dropPayload i.payloadLength)
    obtain ⟨habandon, hreset⟩ :=
      emitAll_abandoned (p := s.w.dropPayload i.payloadLength) hc hk ho hr
    have hcut : s.w.cut ≠ none := by simp [hc]
    rw [exec_packer_usable he hl hu hlen, finishPacker_abandoned (hemits.abandonable habandon)
      (hsends.cut_none.not.mpr hcut), hemits.reset_eq, hreset]
    rfl
  · have hpulls := unpackerBody_pulls i s.r.params s.r
    obtain ⟨habandon, hreset⟩ := takeAll_abandoned hc hk hs ho hr
    have hends := (takeAll (s.r.commandLength i) s.r).abandonable_returns (readValue i s.r.params)
    have hfinal := (takeAll (s.r.commandLength i) s.r).final_returns (readValue i s.r.params)
    rw [← unpackerBody_eq_takeAll he hl] at hends hfinal
    have hcut : s.r.cut ≠ none := by simp [hc]
    rw [exec_unpacker_usable he hl hu, finishUnpacker_abandoned (hends.mpr habandon)
      (hpulls.cut_none.not.mpr hcut), hfinal, hreset]
    rfl

end Sys2Proof.Machine
end


section
/-! PROOFS. How many transfers a command makes at most (70_reset_and_hazards.md R307, 20_memory.md R63). -/

namespace Sys2Proof.Machine

/-! ## Runs, wherever they end -/

/-- A halting offer is not counted (20_memory.md R52). -/
theorem Packer.sinkPut_halted_count {b : Byte} {p t : Packer} {h : Halt}
    (e : p.sinkPut b = .halted h t) : t.count = p.count := by
  obtain ⟨-, e'⟩ | ⟨-, o, ⟨-, e'⟩ | ⟨-, e'⟩ | ⟨-, -, e'⟩ | ⟨-, -, e'⟩⟩ := p.sinkPut_cases b <;>
    rw [e'] at e <;> cases e <;> rfl

/-- A halting request is not counted (20_memory.md R55). -/
theorem Unpacker.srcGet_halted_count {q t : Unpacker} {h : Halt} (e : q.srcGet = .halted h t) :
    t.count = q.count := by
  obtain ⟨-, e'⟩ | ⟨-, o, ⟨-, e'⟩ | ⟨-, e'⟩ | ⟨b, rest, -, -, ⟨-, e'⟩ | ⟨-, e'⟩⟩⟩ :=
    q.srcGet_cases <;> rw [e'] at e <;> cases e <;> rfl

theorem emitAll_count_le (v : Bits) (p : Packer) :
    (emitAll v p).final.count ≤ p.count + p.puts v.length := by
  induction v generalizing p with
  | nil => exact Nat.le_add_right _ _
  | cons b v ih =>
    rw [emitAll]
    cases hb : wPlace [b] p with
    | done _ p₁ =>
      obtain ⟨hcur, hcount, -⟩ := wPlace_one_written hb
      have hcur : p₁.cursor.toNat = (p.cursor.toNat + 1) % 8 := hcur
      have hcount : p₁.count = p.count + p.puts 1 := hcount
      rw [List.length_cons, Nat.add_comm v.length, Packer.puts_add 1 _ hcur, ← Nat.add_assoc,
        ← hcount]
      exact ih p₁
    | halted h t =>
      obtain ⟨-, e⟩ | ⟨-, e⟩ := wPlace_one b p <;> rw [e] at hb
      · cases hb
      · exact (Packer.sinkPut_halted_count hb).le.trans (Nat.le_add_right _ _)

theorem takeAll_count_le (n : Nat) (q : Unpacker) :
    (takeAll n q).final.count ≤ q.count + q.gets n := by
  induction n generalizing q with
  | zero => exact Nat.le_add_right _ _
  | succ n ih =>
    rw [takeAll]
    cases hb : rTake 1 q with
    | done b q₁ =>
      obtain ⟨hcur, hcount, -⟩ := rTake_one_consumed hb
      have hcur : q₁.cursor.toNat = (q.cursor.toNat + 1) % 8 := hcur
      have hcount : q₁.count = q.count + q.gets 1 := hcount
      rw [Nat.add_comm n, Unpacker.gets_add 1 _ hcur, ← Nat.add_assoc, ← hcount, Run.bind_done,
        Run.final_returns]
      exact ih q₁
    | halted h t =>
      rw [rTake] at hb
      split at hb
      · rcases Run.bind_eq_halted hb with hg | ⟨b, q₁, -, hd⟩
        · exact (Unpacker.srcGet_halted_count hg).le.trans (Nat.le_add_right _ _)
        · cases hd
      · cases hb

/-- Writing `n` bits completes a byte at most every eight bits, whatever is pending (20_memory.md R63). -/
theorem Packer.puts_le {n m : Nat} (h : n ≤ m) (p : Packer) : p.puts n ≤ (7 + m) / 8 := by
  have hlt := p.cursor.isLt
  exact Nat.div_le_div_right (by omega)

/-- Consuming `n` bits begins a byte at most every eight bits, whatever is pending (20_memory.md R63). -/
theorem Unpacker.gets_le {n m : Nat} (h : n ≤ m) (q : Unpacker) : q.gets n ≤ (7 + m) / 8 := by
  have hlt := q.cursor.isLt
  unfold Unpacker.gets
  split <;> omega

/-! ## Commands, however they end -/

theorem Packer.Ends.count_le {p w : Packer} {legal : Bool} {x : Run Packer (BitVec 64)} {k : Nat}
    (h : p.Ends legal x w) (hx : legal = true → x.final.count ≤ p.count + k) :
    w.count ≤ p.count + k := by
  cases h with
  | invalid => exact Nat.le_add_right _ _
  | unusable => exact Nat.le_add_right _ _
  | done _ hl e => subst e; exact hx hl
  | io _ hl e => subst e; exact hx hl
  | reset => exact Nat.zero_le _
  | ioReset => exact Nat.zero_le _

theorem Unpacker.Ends.count_le {q r : Unpacker} {legal : Bool}
    {x : Run Unpacker (BitVec 64 × List Byte)} {k : Nat} (h : q.Ends legal x r)
    (hx : legal = true → x.final.count ≤ q.count + k) : r.count ≤ q.count + k := by
  cases h with
  | invalid => exact Nat.le_add_right _ _
  | unusable => exact Nat.le_add_right _ _
  | done _ hl e => subst e; exact hx hl
  | io _ hl e => subst e; exact hx hl
  | reset => exact Nat.zero_le _
  | ioReset => exact Nat.zero_le _

/-- A `PACKER` command that, when it is legal, writes at most `n` bits makes at most `(7 + n) / 8`
transfers, whether it is legal or not and however it ends (20_memory.md R63). -/
theorem exec_packer_count_le {i : Instr} {s t : State} {n : Nat} (he : i.engine = .packer)
    (hn : s.legal i = true → (s.w.commandBits i (s.w.payload.take i.payloadLength)).length ≤ n)
    (h : exec i s = .next t) : t.w.count ≤ s.w.count + (7 + n) / 8 := by
  obtain ⟨w, rfl, hw⟩ := exec_packer_ends he h
  refine hw.count_le fun hl => ?_
  have hcount := congrArg Packer.count (packerBody_emits_commandBits he hl).final_eq
  exact (hcount.le.trans (emitAll_count_le _ _)).trans
    (Nat.add_le_add_left (Packer.puts_le (hn hl) _) _)

/-- An `UNPACKER` command that, when it is legal, consumes at most `n` bits makes at most `(7 + n) / 8`
transfers, whether it is legal or not and however it ends (20_memory.md R63). -/
theorem exec_unpacker_count_le {i : Instr} {s t : State} {n : Nat} (he : i.engine = .unpacker)
    (hn : s.legal i = true → s.r.commandLength i ≤ n) (h : exec i s = .next t) :
    t.r.count ≤ s.r.count + (7 + n) / 8 := by
  obtain ⟨r, rfl, hr⟩ := exec_unpacker_ends he h
  refine hr.count_le fun hl => ?_
  rw [unpackerBody_eq_takeAll he hl, Run.final_returns]
  exact (takeAll_count_le _ _).trans (Nat.add_le_add_left (Unpacker.gets_le (hn hl) _) _)

/-- A byte-sequence read that was answered OK is bounded by the count it returned (43 R205, R211). -/
theorem exec_rbytes_count_le {scale range : Nat} {s t : State} {n : BitVec 64} {payload : List Byte}
    (h : exec (.rbytes scale range) s = .next t) (ha : t.r.response = some ⟨.ok, n, payload⟩) :
    t.r.count ≤ s.r.count + (7 + scale + n.toNat * range) / 8 := by
  obtain ⟨r, rfl, hr⟩ := exec_unpacker_ends (i := .rbytes scale range) rfl h
  obtain ⟨hl, q, hx, -⟩ := hr.ok ha
  rw [unpackerBody_eq_takeAll (i := .rbytes scale range) rfl hl] at hx
  obtain ⟨v, q₁, htake, hd⟩ := Run.bind_eq_done hx
  obtain ⟨rfl, -⟩ := takeAll_eq_take htake
  have hlen := s.r.sequenceLength_eq (range := range) (sequence_bounds hl).2.1
  obtain ⟨hn, -⟩ := Prod.mk.inj (Run.done.inj hd).1
  rw [Nat.add_assoc]
  refine exec_unpacker_count_le (i := .rbytes scale range) rfl (fun _ => ?_) h
  rw [← hn]
  exact hlen.le

/-- Settles O51: the bits of each command, when it is legal, are bounded by its operands. -/
theorem transfersAreBoundedByOperands : Obligations.TransfersAreBoundedByOperands := by
  intro s t u size value
  refine ⟨fun b h => ?_, fun h => ?_, fun n k hk => ?_, fun c h => ?_, fun h => ?_,
    fun boundary hb => ?_, fun scale range len h => ?_, fun scale range n payload h ha => ?_⟩
  · exact exec_packer_count_le (n := 1) rfl (fun _ => le_rfl) h
  · exact exec_unpacker_count_le (n := 1) rfl (fun _ => le_rfl) h
  · have hwidth : k = (7 + n.width) / 8 := by
      simp only [List.mem_cons, Prod.mk.injEq, List.not_mem_nil, or_false] at hk
      obtain ⟨rfl, rfl⟩ | ⟨rfl, rfl⟩ | ⟨rfl, rfl⟩ | ⟨rfl, rfl⟩ := hk <;> rfl
    subst hwidth
    refine ⟨fun h => exec_packer_count_le (engine_write n u size value) (fun hl => ?_) h,
      fun h => exec_unpacker_count_le (engine_read n u size) (fun hl => ?_) h⟩
    · obtain ⟨-, hn⟩ := legalSize_bounds ((s.legal_write n u size value).symm.trans hl)
      rwa [Packer.commandBits_write hn, fieldBits_length]
    · obtain ⟨-, hn⟩ := legalSize_bounds ((s.legal_read n u size).symm.trans hl)
      rwa [Unpacker.commandLength_read]
  · refine exec_packer_count_le (n := 16) (i := .wchar size c) rfl (fun hl => ?_) h
    exact (fieldBits_length c size).le.trans (legalChar_iff.mp hl).2
  · exact exec_unpacker_count_le (n := 16) (i := .rchar size) rfl
      (fun hl => (legalChar_iff.mp hl).2) h
  · have h8 : (7 + 8 * boundary.toNat) / 8 = boundary.toNat := by omega
    rw [← h8]
    refine ⟨exec_packer_count_le (i := .walign boundary) rfl fun _ => ?_,
      exec_unpacker_count_le (i := .ralign boundary) rfl fun _ =>
        s.r.padding_le (by omega)⟩
    exact List.length_replicate.le.trans (s.w.padding_le (by omega))
  · rw [Nat.add_assoc]
    refine exec_packer_count_le (i := .wbytes scale range len) rfl (fun _ => ?_) h
    exact (sequenceBits_length scale range _).le.trans
      (Nat.add_le_add_left (Nat.mul_le_mul_right _ (List.length_take_le _ _)) _)
  · exact exec_rbytes_count_le h ha

end Sys2Proof.Machine
end


section
/-! PROOFS. Hazards on the command port and the payload port, and the reset of an idle engine
(70_reset_and_hazards.md R291, R295, R301, R304). -/

namespace Sys2Proof.Machine

/-- Settles O7: neither port accepts a word while a response is pending. -/
theorem busyEngineRefusesACommand : Obligations.BusyEngineRefusesACommand := by
  intro s word rst rest a
  refine ⟨fun payload hs ha => ?_, fun hs ha => ?_⟩
  · rw [step_cons hs, handle, fetchPacker]
    simp only [ha, Fetched.outcome]
  · rw [step_cons hs, handle, fetchUnpacker]
    simp only [ha, Fetched.outcome]

/-- Settles O9: the event is the reset of its engine, which keeps all that is not a register. -/
theorem resetGivesTheStatedValues : Obligations.ResetGivesTheStatedValues := by
  intro s rest
  exact ⟨fun hs => ⟨_, step_cons hs, rfl, rfl, rfl, rfl, rfl, rfl, rfl, rfl, rfl, rfl⟩,
    fun hs => ⟨_, step_cons hs, rfl, rfl, rfl, rfl, rfl, rfl, rfl, rfl, rfl, rfl⟩⟩

/-- `UNPACKER` has no payload port, so its commands take no payload (30_encoding.md R88, R96). -/
theorem payloadLength_of_unpacker {i : Instr} (he : i.engine = .unpacker) : i.payloadLength = 0 := by
  cases i
  case wbytes => cases he
  case wstr => cases he
  case wascii => cases he
  all_goals rfl

/-- Settles O50: a command that lacks payload bytes is one of `PACKER`, which waits for them. -/
theorem missingPayloadHangsTheCommand : Obligations.MissingPayloadHangsTheCommand := by
  intro i s hlen hcut
  cases he : i.engine with
  | packer => rw [exec_packer s he, packerRun_missing hlen hcut]
  | unpacker =>
    rw [payloadLength_of_unpacker he] at hlen
    exact absurd hlen (Nat.not_lt_zero _)

end Sys2Proof.Machine
end
